-- ==== Sys2Proof/Word.lean ====
section
/-! DEFINITION. The widths of the block (spec/00_scope.md R3): bytes, 16-bit values, command words, byte sequences. -/

namespace Sys2Proof

/-- A byte, `u8` (R3). Addresses, function codes, `IMM8` and `LRC_SUM` are bytes. -/
abbrev Byte := BitVec 8

/-- A 16-bit value, `u16` (R3): the CRC register, `VALUE`, `RX_CHECK`, `CALC_CHECK`. -/
abbrev Half := BitVec 16

/-- A command word (R3, R33): `OP[15:8]`, `IMM8[7:0]`. -/
abbrev CmdWord := BitVec 16

/-- A byte sequence (R10): index 0 is the first byte on the wire. -/
abbrev Bytes := List Byte

end Sys2Proof
end

