-- ==== Sys2Proof/Config.lean ====
section
/-! DEFINITION. What is fixed when an instance of the block is built (spec/00_scope.md R2, R7, R8, R9; spec/10_state.md R13, R14).
The block has no free value: R19 gives every Result field a default and no rule leaves a result open. -/

namespace Sys2Proof

/-- `PROFILE` (R7, R13): the framing profile of an instance. The source's third profile, TCP, is no value of it (I5). -/
inductive Profile where
  | rtu
  | ascii
  deriving DecidableEq, Repr

/-- The profile someone asks for when building an instance. `State.construct` refuses `tcp` (R7, D32). -/
inductive ProfileRequest where
  | rtu
  | ascii
  | tcp
  deriving DecidableEq, Repr

/-- The construction parameters of an instance (R14: "parameters, not state ... fixed for the life of an instance").
A model takes them as arguments (R9); here they stand in `State`, so that a statement about every state holds for every
value of them (log 5). -/
structure Params where
  /-- `ASCII_ACCEPT_LOWERCASE` (R8); its default is false. -/
  asciiAcceptLowercase : Bool := false
  /-- `MAX_IN_LEN` (R9): the capacity of `IN` in bytes, open, at least 513 (see `Params.wf`). -/
  maxInLen : Nat
  deriving DecidableEq, Repr

end Sys2Proof
end

