-- ==== Sys2Proof/Syntax.lean ====
section
/-! DEFINITION. The commands of the block ISA (spec/30_encoding.md R35), one constructor per row of spec/opcode_table.json,
and what the host can do to the block: issue a command word with its `IN`, or assert reset. -/

namespace Sys2Proof

/-- The sixteen commands (R35). A constructor carries the `IMM8` operand where the command has one (R34): the data byte `b` of
the two FEED commands, the address `a` of the two encoders. `IN` is not part of the command word (R33). -/
inductive Instr where
  /-- `CRC_INIT` (R55) -/
  | crcInit
  /-- `CRC_FEED b` (R56) -/
  | crcFeed (b : Byte)
  /-- `CRC_READ` (R57) -/
  | crcRead
  /-- `CRC_COMPUTE` (R58) -/
  | crcCompute
  /-- `CRC_VALIDATE` (R59) -/
  | crcValidate
  /-- `LRC_INIT` (R60) -/
  | lrcInit
  /-- `LRC_FEED b` (R61) -/
  | lrcFeed (b : Byte)
  /-- `LRC_READ` (R62) -/
  | lrcRead
  /-- `LRC_COMPUTE` (R63) -/
  | lrcCompute
  /-- `LRC_VALIDATE` (R64) -/
  | lrcValidate
  /-- `ENCODE_RTU a` (R68) -/
  | encodeRtu (a : Byte)
  /-- `DECODE_RTU` (R69) -/
  | decodeRtu
  /-- `ENCODE_ASCII a` (R70) -/
  | encodeAscii (a : Byte)
  /-- `DECODE_ASCII` (R71) -/
  | decodeAscii
  /-- `RTU_TO_ASCII` (R72) -/
  | rtuToAscii
  /-- `ASCII_TO_RTU` (R73) -/
  | asciiToRtu
  deriving DecidableEq, Repr

/-- One thing the host does to the block, between two steps: issue a command, which is a command word and the byte sequence
`IN` (R1, R24), or assert reset (R92). -/
inductive HostEvent where
  | command (word : CmdWord) (input : Bytes)
  | reset
  deriving DecidableEq, Repr

end Sys2Proof
end

