-- ==== Sys2Proof/WellFormed.lean ====
section
/-! DEFINITION. What the host may build and issue. A decoded command is always well formed: its operand is a byte, and every
byte is legal (spec/30_encoding.md R34, R47). What can be ill formed is an instance's parameters and a command's `IN`. -/

namespace Sys2Proof

/-- `MAX_IN_LEN` is at least 513 (R9), so that every frame an encoder makes can be decoded again (R6). -/
def Params.wf (p : Params) : Bool :=
  decide (513 ≤ p.maxInLen)

/-- A command can be issued only with `len(IN) ≤ MAX_IN_LEN` (R25); a reset can always be asserted (R92). -/
def HostEvent.wf (p : Params) (e : HostEvent) : Bool :=
  match e with
  | .command _ input => decide (input.length ≤ p.maxInLen)
  | .reset => true

end Sys2Proof
end

