-- ==== Sys2Proof/Decode.lean ====
section
/-! DEFINITION. The command encoding (spec/30_encoding.md part A): fields, the opcode map, the decoder, total and rejecting by
name, and after it the encoder. -/

namespace Sys2Proof

/-- `OP`, bits [15:8] of a command word (R33). -/
def opField (w : CmdWord) : Byte := w.extractLsb' 8 8

/-- `IMM8`, bits [7:0] of a command word (R33). -/
def immField (w : CmdWord) : Byte := w.extractLsb' 0 8

/-- The word `(OP << 8) or IMM8` (R49). -/
def cmdWord (op imm : Byte) : CmdWord :=
  (op.setWidth 16 <<< 8) ||| imm.setWidth 16

/-- Why a command word is illegal. Either way the block answers the status ILLEGAL_CMD (R82, checks 1 and 2). -/
inductive DecodeError where
  /-- `OP` is reserved (R38). -/
  | reservedOp (op : Byte)
  /-- `IMM8` is not 0x00 where it must be (R37). -/
  | reservedImm (op imm : Byte)
  deriving DecidableEq, Repr

/-- A command whose `IMM8` must be 0x00 (R37). -/
def withoutOperand (op imm : Byte) (i : Instr) : Except DecodeError Instr :=
  if imm = 0x00#8 then .ok i else .error (.reservedImm op imm)

/-- The opcode map (R35), read from the two fields of a command word. -/
def decodeFields (op imm : Byte) : Except DecodeError Instr :=
  match op.toNat with
  | 0x01 => withoutOperand op imm .crcInit
  | 0x02 => .ok (.crcFeed imm)
  | 0x03 => withoutOperand op imm .crcRead
  | 0x04 => withoutOperand op imm .crcCompute
  | 0x05 => withoutOperand op imm .crcValidate
  | 0x08 => withoutOperand op imm .lrcInit
  | 0x09 => .ok (.lrcFeed imm)
  | 0x0A => withoutOperand op imm .lrcRead
  | 0x0B => withoutOperand op imm .lrcCompute
  | 0x0C => withoutOperand op imm .lrcValidate
  | 0x10 => .ok (.encodeRtu imm)
  | 0x11 => withoutOperand op imm .decodeRtu
  | 0x12 => .ok (.encodeAscii imm)
  | 0x13 => withoutOperand op imm .decodeAscii
  | 0x14 => withoutOperand op imm .rtuToAscii
  | 0x15 => withoutOperand op imm .asciiToRtu
  | _ => .error (.reservedOp op)

/-- The decoder. It reads `OP` and `IMM8` and needs nothing else (R39): `PROFILE` does not change it (R36). -/
def decode (w : CmdWord) : Except DecodeError Instr :=
  decodeFields (opField w) (immField w)

/-- The opcode of a command (R35). -/
def Instr.opcode : Instr → Byte
  | .crcInit => 0x01#8
  | .crcFeed _ => 0x02#8
  | .crcRead => 0x03#8
  | .crcCompute => 0x04#8
  | .crcValidate => 0x05#8
  | .lrcInit => 0x08#8
  | .lrcFeed _ => 0x09#8
  | .lrcRead => 0x0A#8
  | .lrcCompute => 0x0B#8
  | .lrcValidate => 0x0C#8
  | .encodeRtu _ => 0x10#8
  | .decodeRtu => 0x11#8
  | .encodeAscii _ => 0x12#8
  | .decodeAscii => 0x13#8
  | .rtuToAscii => 0x14#8
  | .asciiToRtu => 0x15#8

/-- The `IMM8` of a command (R34, R37). -/
def Instr.operand : Instr → Byte
  | .crcFeed b => b
  | .lrcFeed b => b
  | .encodeRtu a => a
  | .encodeAscii a => a
  | .crcInit | .crcRead | .crcCompute | .crcValidate | .lrcInit | .lrcRead | .lrcCompute | .lrcValidate
  | .decodeRtu | .decodeAscii | .rtuToAscii | .asciiToRtu => 0x00#8

/-- The command word of a command (R35, R49). -/
def encode (i : Instr) : CmdWord :=
  cmdWord i.opcode i.operand

/-- One row of spec/opcode_table.json: a word `w` is the row's when `w and mask = pattern`. -/
structure OpcodeRow where
  mnemonic : String
  mask : CmdWord
  pattern : CmdWord
  deriving DecidableEq, Repr

/-- spec/opcode_table.json, row by row (R35). The decoder does not read it: it stands beside the decoder so that the two can be
compared. -/
def opcodeTable : List OpcodeRow :=
  [⟨"CRC_INIT", 0xFFFF#16, 0x0100#16⟩,
   ⟨"CRC_FEED", 0xFF00#16, 0x0200#16⟩,
   ⟨"CRC_READ", 0xFFFF#16, 0x0300#16⟩,
   ⟨"CRC_COMPUTE", 0xFFFF#16, 0x0400#16⟩,
   ⟨"CRC_VALIDATE", 0xFFFF#16, 0x0500#16⟩,
   ⟨"LRC_INIT", 0xFFFF#16, 0x0800#16⟩,
   ⟨"LRC_FEED", 0xFF00#16, 0x0900#16⟩,
   ⟨"LRC_READ", 0xFFFF#16, 0x0A00#16⟩] ++
  [⟨"LRC_COMPUTE", 0xFFFF#16, 0x0B00#16⟩,
   ⟨"LRC_VALIDATE", 0xFFFF#16, 0x0C00#16⟩,
   ⟨"ENCODE_RTU", 0xFF00#16, 0x1000#16⟩,
   ⟨"DECODE_RTU", 0xFFFF#16, 0x1100#16⟩,
   ⟨"ENCODE_ASCII", 0xFF00#16, 0x1200#16⟩,
   ⟨"DECODE_ASCII", 0xFFFF#16, 0x1300#16⟩,
   ⟨"RTU_TO_ASCII", 0xFFFF#16, 0x1400#16⟩,
   ⟨"ASCII_TO_RTU", 0xFFFF#16, 0x1500#16⟩]

/-- The mnemonic of a command (R35). -/
def Instr.mnemonic : Instr → String
  | .crcInit => "CRC_INIT"
  | .crcFeed _ => "CRC_FEED"
  | .crcRead => "CRC_READ"
  | .crcCompute => "CRC_COMPUTE"
  | .crcValidate => "CRC_VALIDATE"
  | .lrcInit => "LRC_INIT"
  | .lrcFeed _ => "LRC_FEED"
  | .lrcRead => "LRC_READ"
  | .lrcCompute => "LRC_COMPUTE"
  | .lrcValidate => "LRC_VALIDATE"
  | .encodeRtu _ => "ENCODE_RTU"
  | .decodeRtu => "DECODE_RTU"
  | .encodeAscii _ => "ENCODE_ASCII"
  | .decodeAscii => "DECODE_ASCII"
  | .rtuToAscii => "RTU_TO_ASCII"
  | .asciiToRtu => "ASCII_TO_RTU"

/-- The command word whose bits are `w`, when `nbits` bits are given: a command word is exactly 16 bits (R39), so the bits from
`nbits` up are 0 and more than 16 bits are no command word (log 13). -/
def tableWord (nbits w : Nat) : Option CmdWord :=
  if nbits ≤ 16 then some (BitVec.ofNat 16 (w % 2 ^ nbits)) else none

/-- The instruction the decoder reads from a word numbered as spec/opcode_table.json numbers its bits. -/
def decodeTableWord (nbits w : Nat) : Option Instr :=
  match tableWord nbits w with
  | none => none
  | some word =>
    match decode word with
    | .ok i => some i
    | .error _ => none

end Sys2Proof
end

