-- ==== Sys2Proof/Machine/Constants.lean ====
section
/-! DEFINITION. The fixed constants of spec/00_scope.md R4 and the character codes of spec/30_encoding.md R42. The source leaves 4,
11, 252 and 253 unaudited, so each stands here once under its name (N15, I12, log 12). -/

namespace Sys2Proof.Machine

/-- `CRC_INIT` = 0xFFFF (R4). -/
def crcInitValue : Half := 0xFFFF#16

/-- `CRC_POLY` = 0xA001 (R4). -/
def crcPoly : Half := 0xA001#16

/-- `PDU_MIN` = 1: the function code alone (R4). -/
def pduMin : Nat := 1

/-- `PDU_DATA_MAX` = 252: the most data bytes of a PDU (R4, R45). -/
def pduDataMax : Nat := 252

/-- `PDU_MAX` = 253: one function-code byte and `PDU_DATA_MAX` data bytes (R4). -/
def pduMax : Nat := 1 + pduDataMax

/-- `RTU_MIN_FRAME` = 4 (R4). -/
def rtuMinFrame : Nat := 4

/-- `ASCII_MIN_FRAME` = 11 (R4). -/
def asciiMinFrame : Nat := 11

/-- `BROADCAST_ADDR` = 0 (R4). -/
def broadcastAddr : Nat := 0

/-- `UNICAST_MIN` = 1 (R4). -/
def unicastMin : Nat := 1

/-- `UNICAST_MAX` = 247 (R4). -/
def unicastMax : Nat := 247

/-- `:` (R42). -/
def charColon : Byte := 0x3A#8

/-- CR (R42). -/
def charCR : Byte := 0x0D#8

/-- LF (R42). -/
def charLF : Byte := 0x0A#8

end Sys2Proof.Machine
end

