-- ==== Sys2Proof/Machine/State.lean ====
section
/-! DEFINITION. The state of one instance, the Result record, and the state after reset (spec/10_state.md). Plain data
throughout. The block has no memory (spec/20_memory.md R23) and no program counter (R16). -/

namespace Sys2Proof.Machine

/-- The `STATUS` of a Result (spec/60_exceptions.md R78). Codes 7 to 255 are never produced, so no constructor stands for them
(I4). The numbers are `Status.code`. -/
inductive Status where
  | ok
  | rangeLength
  | rangeMarker
  | rangeHex
  | rangePdu
  | profileMismatch
  | illegalCmd
  deriving DecidableEq, Repr

/-- The `ADDR_CLASS` of a Result (R21). `none` is "no frame was decoded". The numbers are `AddrClass.code`. -/
inductive AddrClass where
  | none
  | broadcast
  | unicast
  | reserved
  deriving DecidableEq, Repr

/-- The Result record every command returns (R18); a field a command's rule does not set has the default of R19. -/
structure Result where
  /-- `STATUS` -/
  status : Status := .ok
  /-- `CHK_OK` -/
  chkOk : Bool := false
  /-- `VALUE` -/
  value : Half := 0x0000#16
  /-- `RX_CHECK` -/
  rxCheck : Half := 0x0000#16
  /-- `CALC_CHECK` -/
  calcCheck : Half := 0x0000#16
  /-- `ADDR` -/
  addr : Byte := 0x00#8
  /-- `ADDR_CLASS` -/
  addrClass : AddrClass := .none
  /-- `OUT`, in wire order (R26); its length is bounded by the commands' rules alone (log 8) -/
  out : Bytes := []
  deriving DecidableEq, Repr

/-- One instance of the block with its host. `crc`, `lrcSum` and `profile` are the block's whole state (R17). `params` are its
construction parameters (R14). `issue` and `result` are the two ends of the host interface (log 1, log 2): the block does not
remember a Result (R18) and no command reads `result`. -/
structure State where
  /-- `CRC`, the CRC generator's shift register (R11). -/
  crc : Half
  /-- `LRC_SUM`, the running sum of the LRC accumulator (R12). -/
  lrcSum : Byte
  /-- `PROFILE` (R13). -/
  profile : Profile
  /-- `ASCII_ACCEPT_LOWERCASE` and `MAX_IN_LEN` (R14). -/
  params : Params
  /-- What the host does next, first event first: a step takes the first (R31). -/
  issue : List HostEvent
  /-- The Result the last step returned; `none` after a reset and after a step in which the host did nothing. -/
  result : Option Result
  deriving DecidableEq, Repr

/-- The block never faults: an error is a status in the Result of a command that completes (R78, R81), and there is no trap
(R84). Nothing raises a fault, so the type has no constructor (log 22). Safe. -/
inductive Fault where
  deriving DecidableEq, Repr

/-- Why the model does not answer a next state. No command's meaning raises any of these but `notModelled`. -/
inductive Refusal where
  /-- Raised by an arm of `exec` that has no meaning yet. Safe. -/
  | notModelled (mnemonic : String)
  /-- Raised by `step` when the host presents an `IN` longer than `MAX_IN_LEN`: "refused at the host boundary, and the model has
  no step for it" (spec/20_memory.md R25). Safe. -/
  | inputOverCapacity
  /-- Raised by `State.construct` for an instance built with PROFILE = TCP (spec/00_scope.md R7, I5). Safe. -/
  | profileTcp
  /-- Raised by `State.construct` for a `MAX_IN_LEN` below 513 (R9). Safe. -/
  | capacityBelowMinimum
  /-- Raised by `readResult` when no Result exists (R22, I10). Safe. -/
  | noResult
  /-- Raised by `Instances.stepAt` for an instance that does not exist. Safe. -/
  | noSuchInstance
  deriving DecidableEq, Repr

/-- An instance right after power-on, which is a reset (R92): `CRC` = 0xFFFF, `LRC_SUM` = 0x00, `PROFILE` and the parameters as
the instance was built, no Result (R22), the host yet to do anything. -/
def State.powerOn (profile : Profile) (params : Params) : State where
  crc := 0xFFFF#16
  lrcSum := 0x00#8
  profile := profile
  params := params
  issue := []
  result := none

/-- The machine right after reset (R22, R92). `PROFILE`, `ASCII_ACCEPT_LOWERCASE` and `MAX_IN_LEN` are given at construction:
here RTU (DESIGN CHOICE, log 4), the spec's default false (R8), and 513, the least the spec allows (DESIGN CHOICE, log 5). -/
def State.reset : State :=
  State.powerOn .rtu { asciiAcceptLowercase := false, maxInLen := 513 }

end Sys2Proof.Machine
end

