-- ==== Sys2Proof/Machine/Ops.lean ====
section
/-! DEFINITION. The named operations every command is made of: reading `IN`, byte order, the two registers, ending a command with
a Result, and raising a status, which is the one way this block reports an exception (spec/60_exceptions.md R81, R84: there is
no handler to enter and no return from one). Beside them what the host does: reset, building an instance, reading a Result. -/

namespace Sys2Proof.Machine

/-! Byte sequences and byte order. -/

/-- `s[i]` (R10). Every use is at an index below `len(s)`, so the default byte is never read (R24). -/
def byteAt (s : Bytes) (i : Nat) : Byte := s.getD i 0x00#8

/-- `s[a..b)` (R10). -/
def slice (s : Bytes) (a b : Nat) : Bytes := (s.take b).drop a

/-- `c[7:0]`. -/
def lowByte (c : Half) : Byte := c.extractLsb' 0 8

/-- `c[15:8]`. -/
def highByte (c : Half) : Byte := c.extractLsb' 8 8

/-- The wire bytes of a CRC, low byte first (R27). -/
def crcWire (c : Half) : Bytes := [lowByte c, highByte c]

/-- `zext_16(b0) or (zext_16(b1) << 8)`: two wire bytes read back as a CRC (R27). -/
def crcOfWire (b0 b1 : Byte) : Half := b0.setWidth 16 ||| (b1.setWidth 16 <<< 8)

/-! The codes of the enumerated fields. -/

/-- The `STATUS` number (R78). -/
def Status.code : Status → Byte
  | .ok => 0#8
  | .rangeLength => 1#8
  | .rangeMarker => 2#8
  | .rangeHex => 3#8
  | .rangePdu => 4#8
  | .profileMismatch => 5#8
  | .illegalCmd => 6#8

/-- The two-bit `ADDR_CLASS` number (R21). -/
def AddrClass.code : AddrClass → BitVec 2
  | .none => 0#2
  | .broadcast => 1#2
  | .unicast => 2#2
  | .reserved => 3#2

/-- The `PROFILE` number (R13). -/
def profileCode : Profile → BitVec 1
  | .rtu => 0#1
  | .ascii => 1#1

/-! The state. -/

/-- `IN`: the byte sequence the host passes by value with the command it issues now (R24). -/
def State.input (s : State) : Bytes :=
  match s.issue with
  | .command _ input :: _ => input
  | .reset :: _ => []
  | [] => []

/-- `CRC <- v` (R10). -/
def State.setCrc (v : Half) (s : State) : State := { s with crc := v }

/-- `LRC_SUM <- v` (R10). -/
def State.setLrcSum (v : Byte) (s : State) : State := { s with lrcSum := v }

/-- The command's step ends: its event is done and its Result is the host's to read (R18, R30). -/
def State.returning (r : Result) (s : State) : State :=
  { s with issue := s.issue.tail, result := some r }

/-! Ending a command. -/

/-- `return Result r` (R10). -/
def complete (r : Result) (s : State) : Host.Outcome State Fault Refusal :=
  .next (s.returning r)

/-- The Result of an error: its `STATUS`, every other field at its default (R81). -/
def errorResult (c : Status) : Result := { status := c }

/-- `raise Status(c)`: no register is written and the Result is the error's (R10, R81). A status is not sticky: the next command
executes like any other (R84). -/
def raise (c : Status) (s : State) : Host.Outcome State Fault Refusal :=
  complete (errorResult c) s

/-- End a pure command whose pseudocode either returns a Result or raises a status. -/
def conclude (e : Except Status Result) (s : State) : Host.Outcome State Fault Refusal :=
  match e with
  | .ok r => complete r s
  | .error c => raise c s

/-- The profile gate of a per-profile command, before its own checks (R36, R82). -/
def gated (p : Profile) (e : Except Status Result) (s : State) : Host.Outcome State Fault Refusal :=
  if s.profile = p then conclude e s else raise .profileMismatch s

/-! What the host does. -/

/-- Whether the host can present `IN` (R25). -/
def presentable (input : Bytes) (s : State) : Bool :=
  decide (input.length ≤ s.params.maxInLen)

/-- Reset, asserted between two commands (R92): every piece of state takes its value of R22, `PROFILE` stays, no Result. -/
def State.afterReset (s : State) : State :=
  { s with crc := 0xFFFF#16, lrcSum := 0x00#8, issue := s.issue.tail, result := none }

/-- The host does nothing: the block never starts an action by itself (R1) and holds its state (R90); there is no Result of
this step (log 3). -/
def State.idle (s : State) : State :=
  { s with result := none }

/-- Building an instance (R7, R9, R94): PROFILE = TCP and a capacity below 513 are refused. Power-on is a reset (R92). -/
def State.construct (p : ProfileRequest) (params : Params) : Host.Outcome State Fault Refusal :=
  match p with
  | .tcp => .refused .profileTcp
  | .rtu => if params.wf then .next (State.powerOn .rtu params) else .refused .capacityBelowMinimum
  | .ascii => if params.wf then .next (State.powerOn .ascii params) else .refused .capacityBelowMinimum

/-- The host reads the Result of the step just made; before the first command completes there is none to read (R22, I10). -/
def readResult (s : State) : Except Refusal Result :=
  match s.result with
  | some r => .ok r
  | none => .error .noResult

end Sys2Proof.Machine
end

