-- ==== Sys2Proof/Machine/Flags.lean ====
section
/-! DEFINITION. `CHK_OK`, the block's only flag (spec/10_state.md R20). It is a field of the Result and not state. -/

namespace Sys2Proof.Machine

/-- `CHK_OK`: true when `RX_CHECK = CALC_CHECK`, false otherwise (R20). A mismatch is no error (R80). -/
def chkOkFlag (rx computed : Half) : Bool := decide (rx = computed)

/-- The three check fields of a Result, written together by the validators, decoders and converters (R20). -/
def Result.withCheck (rx computed : Half) (r : Result) : Result :=
  { r with chkOk := chkOkFlag rx computed, rxCheck := rx, calcCheck := computed }

end Sys2Proof.Machine
end

