-- ==== Sys2Proof/Machine/Operands.lean ====
section
/-! DEFINITION. The operand forms (spec/30_encoding.md R34, R45, R47). `IMM8` is used unchanged, as a data byte or an address, so a
meaning takes it as it was decoded. `IN` is a payload, a PDU, or a frame with a trailing check field. -/

namespace Sys2Proof.Machine

/-- The payload of a frame whose check field is its last `k` bytes: `IN[0..n−k)` (R59, R64). -/
def payloadOf (k : Nat) (frame : Bytes) : Bytes := slice frame 0 (frame.length - k)

/-- The trailing CRC field, low byte first (R27, R59). Read only where `2 ≤ len(frame)`. -/
def trailingCrc (frame : Bytes) : Half :=
  crcOfWire (byteAt frame (frame.length - 2)) (byteAt frame (frame.length - 1))

/-- The trailing LRC byte (R64). Read only where `1 ≤ len(frame)`. -/
def trailingLrc (frame : Bytes) : Byte := byteAt frame (frame.length - 1)

/-- A PDU has 1 to 253 bytes (R45); outside that an encoder raises RANGE_PDU (R5, R68, R70). -/
def pduLengthOk (pdu : Bytes) : Bool :=
  decide (pduMin ≤ pdu.length ∧ pdu.length ≤ pduMax)

/-- `addr_class(a)` (R47). -/
def addrClassOf (a : Byte) : AddrClass :=
  if a.toNat = broadcastAddr then .broadcast
  else if unicastMin ≤ a.toNat ∧ a.toNat ≤ unicastMax then .unicast
  else .reserved

/-- An exception PDU `[FC or 0x80, EXC]` (R45). It is data: no command makes or checks one (R46, R86). -/
def exceptionPdu (fc exc : Byte) : Bytes := [fc ||| 0x80#8, exc]

end Sys2Proof.Machine
end

