-- ==== Sys2Proof/Machine/Checksum.lean ====
section
/-! DEFINITION. The checksum functions (spec/40_checksum.md R52, R53, R54), shared by the checksum commands and the codec. -/

namespace Sys2Proof.Machine

/-- `CRC_SHIFT(r)` (R52). -/
def crcShift (r : Half) : Half :=
  if r.getLsbD 0 then (r >>> 1) ^^^ crcPoly else r >>> 1

/-- `n` applications of `CRC_SHIFT`. -/
def crcShifts : Nat → Half → Half
  | 0, t => t
  | n + 1, t => crcShifts n (crcShift t)

/-- `CRC_BYTE(r, b)` (R52): the byte enters bits [7:0], then 8 shifts. One atomic step: the values between the shifts are not
observable (R17). -/
def crcByte (r : Half) (b : Byte) : Half :=
  crcShifts 8 (r ^^^ b.setWidth 16)

/-- `CRC16(s)` (R52): from 0xFFFF, byte by byte, no final XOR. -/
def crc16 (s : Bytes) : Half :=
  s.foldl crcByte crcInitValue

/-- `s[0] + s[1] + ...` on mathematical integers (R53). -/
def byteSum (s : Bytes) : Nat :=
  (s.map BitVec.toNat).sum

/-- `(256 − sum) mod 256`, the LRC of a running sum (R53, R62). -/
def lrcOfSum (sum : Byte) : Byte :=
  BitVec.ofNat 8 ((256 - sum.toNat) % 256)

/-- `LRC8(s)` (R53). -/
def lrc8 (s : Bytes) : Byte :=
  lrcOfSum (BitVec.ofNat 8 (byteSum s % 256))

/-- `LRC_FEED`'s sum, `(LRC_SUM + b) mod 256` (R54, R61). -/
def lrcAdd (sum b : Byte) : Byte :=
  BitVec.ofNat 8 ((sum.toNat + b.toNat) % 256)

/-- The Result of CRC_READ and CRC_COMPUTE (R57, R58): the CRC and its wire bytes. -/
def crcResult (c : Half) : Result :=
  { value := c, out := crcWire c }

/-- The Result of LRC_READ and LRC_COMPUTE (R62, R63): the LRC zero-extended, and the byte. -/
def lrcResult (l : Byte) : Result :=
  { value := l.setWidth 16, out := [l] }

end Sys2Proof.Machine
end

