-- ==== Sys2Proof/Machine/Hex.lean ====
section
/-! DEFINITION. Hex digits of the ASCII framing (spec/30_encoding.md R42, R43, R44), high nibble first (spec/20_memory.md R28). -/

namespace Sys2Proof.Machine

/-- `HEXDIG(n)` for a nibble (R43), in uppercase. -/
def hexDig (n : BitVec 4) : Byte :=
  if n.toNat ≤ 9 then BitVec.ofNat 8 (0x30 + n.toNat) else BitVec.ofNat 8 (0x41 + (n.toNat - 10))

/-- `HEXENC([b])` (R43): the digit of `b[7:4]`, then the digit of `b[3:0]`. -/
def hexEncByte (b : Byte) : Bytes :=
  [hexDig (b.extractLsb' 4 4), hexDig (b.extractLsb' 0 4)]

/-- `HEXENC(s)` (R43). -/
def hexEnc : Bytes → Bytes
  | [] => []
  | b :: s => hexEncByte b ++ hexEnc s

/-- `HEXVAL(ch)` (R44); `none` is INVALID. `lower` is `ASCII_ACCEPT_LOWERCASE`. -/
def hexVal (lower : Bool) (ch : Byte) : Option Nat :=
  let c := ch.toNat
  if 0x30 ≤ c ∧ c ≤ 0x39 then some (c - 0x30)
  else if 0x41 ≤ c ∧ c ≤ 0x46 then some (c - 0x41 + 10)
  else if lower = true ∧ 0x61 ≤ c ∧ c ≤ 0x66 then some (c - 0x61 + 10)
  else none

/-- `HEXDEC(t)` (R44): `r[k] = HEXVAL(t[2k])·16 + HEXVAL(t[2k+1])`, defined (`some`) only for an even number of characters none of
which is INVALID. -/
def hexDec (lower : Bool) : Bytes → Option Bytes
  | [] => some []
  | [_] => none
  | hi :: lo :: t =>
    match hexVal lower hi, hexVal lower lo, hexDec lower t with
    | some h, some l, some r => some (BitVec.ofNat 8 (h * 16 + l) :: r)
    | _, _, _ => none

end Sys2Proof.Machine
end

