-- ==== Sys2Proof/Machine/Frames.lean ====
section
/-! DEFINITION. The RTU and ASCII frames (spec/30_encoding.md R40, R41) and the two splits the decoders and converters share
(spec/41_frame_codec.md R69, R71). -/

namespace Sys2Proof.Machine

/-- `rtu_frame(a, p)` (R40). -/
def rtuFrame (a : Byte) (p : Bytes) : Bytes :=
  [a] ++ p ++ crcWire (crc16 ([a] ++ p))

/-- `ascii_frame(a, p)` (R41). -/
def asciiFrame (a : Byte) (p : Bytes) : Bytes :=
  [charColon] ++ hexEnc (([a] ++ p) ++ [lrc8 ([a] ++ p)]) ++ [charCR, charLF]

/-- The Result of a decoded frame: address, class, PDU and check fields. No address is rejected (R47), and a bad check is a flag
and not a status (R80). -/
def decodedResult (a : Byte) (pdu : Bytes) (rx computed : Half) : Result :=
  Result.withCheck rx computed { addr := a, addrClass := addrClassOf a, out := pdu }

/-- `rtu_split(F)` (R69). There is no upper bound on the length. -/
def rtuSplit (frame : Bytes) : Except Status Result :=
  if frame.length < rtuMinFrame then .error .rangeLength
  else
    .ok (decodedResult (byteAt frame 0) (slice frame 1 (frame.length - 2))
      (trailingCrc frame) (crc16 (payloadOf 2 frame)))

/-- The start and end markers of an ASCII frame (R41, R71): `:` first, CR LF last. -/
def asciiMarkersOk (frame : Bytes) : Bool :=
  decide (byteAt frame 0 = charColon ∧ byteAt frame (frame.length - 2) = charCR
    ∧ byteAt frame (frame.length - 1) = charLF)

/-- `ascii_split` after the hex characters are decoded (R71): `r` is address, PDU and LRC. -/
def asciiFields (r : Bytes) : Result :=
  decodedResult (byteAt r 0) (slice r 1 (r.length - 1))
    ((trailingLrc r).setWidth 16) ((lrc8 (payloadOf 1 r)).setWidth 16)

/-- `ascii_split(F)` (R71). `lower` is `ASCII_ACCEPT_LOWERCASE`. -/
def asciiSplit (lower : Bool) (frame : Bytes) : Except Status Result :=
  if frame.length < asciiMinFrame then .error .rangeLength
  else if ¬ asciiMarkersOk frame then .error .rangeMarker
  else
    let t := slice frame 1 (frame.length - 2)
    if t.length % 2 ≠ 0 then .error .rangeHex
    else
      match hexDec lower t with
      | none => .error .rangeHex
      | some r => .ok (asciiFields r)

end Sys2Proof.Machine
end

