-- ==== Sys2Proof/Machine/AsciiCodec.lean ====
section
/-! DEFINITION. The ASCII encoder and decoder (spec/41_frame_codec.md section 2). They run only under PROFILE = ASCII
(spec/30_encoding.md R36). -/

namespace Sys2Proof.Machine

/-- The pseudocode of ENCODE_ASCII after the profile check (R70). -/
def asciiEncode (a : Byte) (pdu : Bytes) : Except Status Result :=
  if pduLengthOk pdu then .ok { value := (lrc8 ([a] ++ pdu)).setWidth 16, out := asciiFrame a pdu }
  else .error .rangePdu

/-- ENCODE_ASCII (R70). -/
def execEncodeAscii (a : Byte) (s : State) : Host.Outcome State Fault Refusal :=
  gated .ascii (asciiEncode a s.input) s

/-- DECODE_ASCII (R71). -/
def execDecodeAscii (s : State) : Host.Outcome State Fault Refusal :=
  gated .ascii (asciiSplit s.params.asciiAcceptLowercase s.input) s

end Sys2Proof.Machine
end

