-- ==== Sys2Proof/Machine/Converters.lean ====
section
/-! DEFINITION. The re-framing converters (spec/41_frame_codec.md section 3). They run under either profile. A source frame with a
bad check is re-framed all the same, and `CHK_OK` reports it (R72, R73, D17). -/

namespace Sys2Proof.Machine

/-- What RTU_TO_ASCII makes of a split RTU frame (R72). -/
def reframeAsAscii (d : Result) : Except Status Result :=
  if pduMax < d.out.length then .error .rangePdu
  else .ok { d with value := (lrc8 ([d.addr] ++ d.out)).setWidth 16, out := asciiFrame d.addr d.out }

/-- RTU_TO_ASCII (R72): the split's raise ends the command. -/
def execRtuToAscii (s : State) : Host.Outcome State Fault Refusal :=
  conclude ((rtuSplit s.input).bind reframeAsAscii) s

/-- What ASCII_TO_RTU makes of a split ASCII frame (R73). -/
def reframeAsRtu (d : Result) : Except Status Result :=
  if pduMax < d.out.length then .error .rangePdu
  else .ok { d with value := crc16 ([d.addr] ++ d.out), out := rtuFrame d.addr d.out }

/-- ASCII_TO_RTU (R73): the split's raise ends the command. -/
def execAsciiToRtu (s : State) : Host.Outcome State Fault Refusal :=
  conclude ((asciiSplit s.params.asciiAcceptLowercase s.input).bind reframeAsRtu) s

end Sys2Proof.Machine
end

