-- ==== Sys2Proof/Machine/CrcCommands.lean ====
section
/-! DEFINITION. The CRC-16 commands (spec/40_checksum.md section 2). -/

namespace Sys2Proof.Machine

/-- CRC_INIT (R55). -/
def execCrcInit (s : State) : Host.Outcome State Fault Refusal :=
  complete {} (s.setCrc crcInitValue)

/-- CRC_FEED (R56). -/
def execCrcFeed (b : Byte) (s : State) : Host.Outcome State Fault Refusal :=
  complete {} (s.setCrc (crcByte s.crc b))

/-- CRC_READ (R57). -/
def execCrcRead (s : State) : Host.Outcome State Fault Refusal :=
  complete (crcResult s.crc) s

/-- CRC_COMPUTE (R58): `IN` is the payload alone, without a checksum slot (spec/90_conflicts.md C1). -/
def execCrcCompute (s : State) : Host.Outcome State Fault Refusal :=
  complete (crcResult (crc16 s.input)) s

/-- The pseudocode of CRC_VALIDATE (R59). -/
def crcValidate (frame : Bytes) : Except Status Result :=
  if frame.length < 2 then .error .rangeLength
  else .ok (Result.withCheck (trailingCrc frame) (crc16 (payloadOf 2 frame)) {})

/-- CRC_VALIDATE (R59). -/
def execCrcValidate (s : State) : Host.Outcome State Fault Refusal :=
  conclude (crcValidate s.input) s

end Sys2Proof.Machine
end

