-- ==== Sys2Proof/Machine/LrcCommands.lean ====
section
/-! DEFINITION. The LRC commands (spec/40_checksum.md section 3). -/

namespace Sys2Proof.Machine

/-- LRC_INIT (R60). -/
def execLrcInit (s : State) : Host.Outcome State Fault Refusal :=
  complete {} (s.setLrcSum 0x00#8)

/-- LRC_FEED (R61). -/
def execLrcFeed (b : Byte) (s : State) : Host.Outcome State Fault Refusal :=
  complete {} (s.setLrcSum (lrcAdd s.lrcSum b))

/-- LRC_READ (R62). -/
def execLrcRead (s : State) : Host.Outcome State Fault Refusal :=
  complete (lrcResult (lrcOfSum s.lrcSum)) s

/-- LRC_COMPUTE (R63). -/
def execLrcCompute (s : State) : Host.Outcome State Fault Refusal :=
  complete (lrcResult (lrc8 s.input)) s

/-- The pseudocode of LRC_VALIDATE (R64). -/
def lrcValidate (frame : Bytes) : Except Status Result :=
  if frame.length < 1 then .error .rangeLength
  else .ok (Result.withCheck ((trailingLrc frame).setWidth 16) ((lrc8 (payloadOf 1 frame)).setWidth 16) {})

/-- LRC_VALIDATE (R64). -/
def execLrcValidate (s : State) : Host.Outcome State Fault Refusal :=
  conclude (lrcValidate s.input) s

end Sys2Proof.Machine
end

