-- ==== Sys2Proof/Machine/RtuCodec.lean ====
section
/-! DEFINITION. The RTU encoder and decoder (spec/41_frame_codec.md section 1). They run only under PROFILE = RTU
(spec/30_encoding.md R36). -/

namespace Sys2Proof.Machine

/-- The pseudocode of ENCODE_RTU after the profile check (R68). PDU bytes are copied unread (R46). -/
def rtuEncode (a : Byte) (pdu : Bytes) : Except Status Result :=
  if pduLengthOk pdu then .ok { value := crc16 ([a] ++ pdu), out := rtuFrame a pdu }
  else .error .rangePdu

/-- ENCODE_RTU (R68). -/
def execEncodeRtu (a : Byte) (s : State) : Host.Outcome State Fault Refusal :=
  gated .rtu (rtuEncode a s.input) s

/-- DECODE_RTU (R69). -/
def execDecodeRtu (s : State) : Host.Outcome State Fault Refusal :=
  gated .rtu (rtuSplit s.input) s

end Sys2Proof.Machine
end

