-- ==== Sys2Proof/Machine/Dispatch.lean ====
section
/-! DEFINITION. The meaning of each command, one arm per constructor (spec/30_encoding.md R35). -/

namespace Sys2Proof.Machine

def exec (i : Instr) (s : State) : Host.Outcome State Fault Refusal :=
  match i with
  | .crcInit => Sys2Proof.Machine.execCrcInit s
  | .crcFeed b => Sys2Proof.Machine.execCrcFeed b s
  | .crcRead => Sys2Proof.Machine.execCrcRead s
  | .crcCompute => Sys2Proof.Machine.execCrcCompute s
  | .crcValidate => Sys2Proof.Machine.execCrcValidate s
  | .lrcInit => Sys2Proof.Machine.execLrcInit s
  | .lrcFeed b => Sys2Proof.Machine.execLrcFeed b s
  | .lrcRead => Sys2Proof.Machine.execLrcRead s
  | .lrcCompute => Sys2Proof.Machine.execLrcCompute s
  | .lrcValidate => Sys2Proof.Machine.execLrcValidate s
  | .encodeRtu a => Sys2Proof.Machine.execEncodeRtu a s
  | .decodeRtu => Sys2Proof.Machine.execDecodeRtu s
  | .encodeAscii a => Sys2Proof.Machine.execEncodeAscii a s
  | .decodeAscii => Sys2Proof.Machine.execDecodeAscii s
  | .rtuToAscii => Sys2Proof.Machine.execRtuToAscii s
  | .asciiToRtu => Sys2Proof.Machine.execAsciiToRtu s

end Sys2Proof.Machine
end

