-- ==== Sys2Proof/Machine/Step.lean ====
section
/-! DEFINITION. One step of an instance with its host: the host's next event takes effect (spec/20_memory.md R30, R31). -/

namespace Sys2Proof.Machine

/-- One step. With no event the block does nothing (R1). A reset sets the state (R92). A command with an `IN` over the capacity has
no step (R25). Any other command word is decoded (R39) and executed as one atomic step (R30); an illegal word raises ILLEGAL_CMD
before any other check (R37, R38, R82). -/
def step (s : State) : Host.Outcome State Fault Refusal :=
  match s.issue with
  | [] => .next s.idle
  | .reset :: _ => .next s.afterReset
  | .command word input :: _ =>
    if presentable input s then
      match decode word with
      | .ok i => exec i s
      | .error _ => raise .illegalCmd s
    else .refused .inputOverCapacity

/-- `k` steps, stopping at the first that does not answer a next state: the host's events take effect one a step, in issue order
(R31). It is `Host.Core.run` of `Sys2Proof.core` (`runSteps_eq_run`). -/
def runSteps : Nat → State → Host.Outcome State Fault Refusal
  | 0, s => .next s
  | k + 1, s =>
    match step s with
    | .next t => runSteps k t
    | .fault e => .fault e
    | .refused r => .refused r

/-- `s` with the given command word issued next, with an empty `IN`, before what the host would have done. The block fetches
nothing (R16): a command reaches it only because the host issues it, so this is where the next step takes its command from
(log 10). -/
def State.withFetchWord (s : State) (nbits w : Nat) : State :=
  { s with issue := .command (BitVec.ofNat 16 (w % 2 ^ nbits)) [] :: s.issue }

end Sys2Proof.Machine
end

