-- ==== Sys2Proof/Machine/Assembler.lean ====
section
/-! DEFINITION. The assembler syntax and the pseudo-commands (spec/30_encoding.md part C, R49 and R50). Text is a list of
characters. What the grammar leaves open about spaces, digits and the comma is log 14. -/

namespace Sys2Proof.Machine

/-! Pseudo-commands (R50). -/

inductive Pseudo where
  /-- `CRC_STREAM [b0 ... bk−1]` -/
  | crcStream (bytes : Bytes)
  /-- `LRC_STREAM [b0 ... bk−1]` -/
  | lrcStream (bytes : Bytes)
  deriving DecidableEq, Repr

/-- The commands a pseudo-command expands to (R50). The sequence is not atomic. -/
def Pseudo.expand : Pseudo → List Instr
  | .crcStream bytes => [.crcInit] ++ bytes.map .crcFeed ++ [.crcRead]
  | .lrcStream bytes => [.lrcInit] ++ bytes.map .lrcFeed ++ [.lrcRead]

/-- The host event that issues a command with an `IN`. -/
def issueOf (input : Bytes) (i : Instr) : HostEvent := .command (encode i) input

/-- The host events of a pseudo-command: an omitted `IN` is the empty sequence (R49). -/
def Pseudo.events (p : Pseudo) : List HostEvent := p.expand.map (issueOf [])

/-! Characters. -/

/-- `"`, written by its code. -/
def quoteChar : Char := Char.ofNat 34

/-- `\`, written by its code. -/
def backslashChar : Char := Char.ofNat 92

def skipSpaces : List Char → List Char
  | [] => []
  | c :: cs => if c = ' ' then skipSpaces cs else c :: cs

/-- A hex digit of the source text, either case. -/
def sourceHexDigit (c : Char) : Option Nat :=
  let n := c.toNat
  if 48 ≤ n ∧ n ≤ 57 then some (n - 48)
  else if 65 ≤ n ∧ n ≤ 70 then some (n - 65 + 10)
  else if 97 ≤ n ∧ n ≤ 102 then some (n - 97 + 10)
  else none

/-- Two hex digits, `hh` (R49). -/
def sourceByte (hi lo : Char) : Option Byte :=
  match sourceHexDigit hi, sourceHexDigit lo with
  | some h, some l => some (BitVec.ofNat 8 (h * 16 + l))
  | _, _ => none

/-- Whether a text stands at the end of an operand: nothing, a space, a comma or a closing bracket follows. -/
def atOperandEnd : List Char → Bool
  | [] => true
  | c :: _ => decide (c = ' ' ∨ c = ',' ∨ c = ']')

/-- Decimal digits, with the value of those read so far. -/
def decimalDigits (acc : Nat) : List Char → Nat × List Char
  | [] => (acc, [])
  | c :: cs =>
    if 48 ≤ c.toNat ∧ c.toNat ≤ 57 then decimalDigits (acc * 10 + (c.toNat - 48)) cs else (acc, c :: cs)

/-- `IMM8 ::= 0xhh | decimal 0..255` (R49). -/
def parseImm8 (text : List Char) : Option (Byte × List Char) :=
  match text with
  | '0' :: 'x' :: hi :: lo :: rest =>
    match sourceByte hi lo with
    | some b => if atOperandEnd rest then some (b, rest) else none
    | none => none
  | c :: cs =>
    if 48 ≤ c.toNat ∧ c.toNat ≤ 57 then
      let read := decimalDigits 0 (c :: cs)
      if read.1 ≤ 255 ∧ atOperandEnd read.2 then some (BitVec.ofNat 8 read.1, read.2) else none
    else none
  | [] => none

/-- The rest of `[ hh hh ... ]` after its opening bracket (R49). -/
def parseHexList : List Char → Option (Bytes × List Char)
  | [] => none
  | ']' :: rest => some ([], rest)
  | ' ' :: rest => parseHexList rest
  | [_] => none
  | hi :: lo :: rest =>
    match sourceByte hi lo, parseHexList rest with
    | some b, some (bytes, after) => if atOperandEnd rest then some (b :: bytes, after) else none
    | _, _ => none

/-- The rest of `"text"` after its opening quote, with `\r` = 0x0D and `\n` = 0x0A (R49); every other character is its ASCII code.
`escaped` says that a backslash was just read, `read` holds the bytes read so far, last first. -/
def parseTextFrom (escaped : Bool) (read : Bytes) : List Char → Option (Bytes × List Char)
  | [] => none
  | c :: rest =>
    if escaped then
      if c = 'r' then parseTextFrom false (charCR :: read) rest
      else if c = 'n' then parseTextFrom false (charLF :: read) rest
      else none
    else if c = quoteChar then some (read.reverse, rest)
    else if c = backslashChar then parseTextFrom true read rest
    else if c.toNat < 128 then parseTextFrom false (BitVec.ofNat 8 c.toNat :: read) rest
    else none

/-- The rest of `"text"` after its opening quote (R49). -/
def parseText (text : List Char) : Option (Bytes × List Char) :=
  parseTextFrom false [] text

/-- `<bytes>` (R49). -/
def parseBytes (text : List Char) : Option (Bytes × List Char) :=
  match text with
  | [] => none
  | c :: rest =>
    if c = '[' then parseHexList rest
    else if c = quoteChar then parseText rest
    else none

/-- `IN = <bytes>` up to the end of the line, spaces between its parts. -/
def parseIn (text : List Char) : Option Bytes :=
  match text with
  | 'I' :: 'N' :: rest =>
    match skipSpaces rest with
    | '=' :: rest' =>
      match parseBytes (skipSpaces rest') with
      | some (bytes, after) => if skipSpaces after = [] then some bytes else none
      | none => none
    | _ => none
  | _ => none

/-- `[, IN = <bytes>]` up to the end of the line; an omitted `IN` is the empty sequence (R49). -/
def parseInTail (text : List Char) : Option Bytes :=
  match skipSpaces text with
  | [] => some []
  | ',' :: rest => parseIn (skipSpaces rest)
  | _ => none

/-- Everything after a mnemonic whose command has no `IMM8` operand: nothing, or `IN = <bytes>` with or without the comma. -/
def parseWithoutImm8 (text : List Char) : Option Bytes :=
  match skipSpaces text with
  | [] => some []
  | ',' :: rest => parseIn (skipSpaces rest)
  | c :: cs => parseIn (c :: cs)

/-- Everything after a mnemonic whose command has an `IMM8` operand: the operand may be omitted and is then 0x00 (R49). -/
def parseWithImm8 (text : List Char) : Option (Byte × Bytes) :=
  match parseImm8 (skipSpaces text) with
  | some (imm, rest) =>
    match parseInTail rest with
    | some bytes => some (imm, bytes)
    | none => none
  | none =>
    match parseWithoutImm8 text with
    | some bytes => some (0x00#8, bytes)
    | none => none

/-! The line. -/

/-- What a mnemonic stands for: a command without an `IMM8` operand, one with it (R35), or a pseudo-command (R50). -/
inductive MnemonicForm where
  | plain (i : Instr)
  | withImm8 (i : Byte → Instr)
  | pseudo (p : Bytes → Pseudo)

/-- The mnemonics of R35 and R50. -/
def mnemonicForms : List (List Char × MnemonicForm) :=
  [(['C','R','C','_','I','N','I','T'], .plain .crcInit),
   (['C','R','C','_','F','E','E','D'], .withImm8 .crcFeed),
   (['C','R','C','_','R','E','A','D'], .plain .crcRead),
   (['C','R','C','_','C','O','M','P','U','T','E'], .plain .crcCompute),
   (['C','R','C','_','V','A','L','I','D','A','T','E'], .plain .crcValidate),
   (['L','R','C','_','I','N','I','T'], .plain .lrcInit),
   (['L','R','C','_','F','E','E','D'], .withImm8 .lrcFeed),
   (['L','R','C','_','R','E','A','D'], .plain .lrcRead),
   (['L','R','C','_','C','O','M','P','U','T','E'], .plain .lrcCompute)] ++
  [(['L','R','C','_','V','A','L','I','D','A','T','E'], .plain .lrcValidate),
   (['E','N','C','O','D','E','_','R','T','U'], .withImm8 .encodeRtu),
   (['D','E','C','O','D','E','_','R','T','U'], .plain .decodeRtu),
   (['E','N','C','O','D','E','_','A','S','C','I','I'], .withImm8 .encodeAscii),
   (['D','E','C','O','D','E','_','A','S','C','I','I'], .plain .decodeAscii),
   (['R','T','U','_','T','O','_','A','S','C','I','I'], .plain .rtuToAscii),
   (['A','S','C','I','I','_','T','O','_','R','T','U'], .plain .asciiToRtu),
   (['C','R','C','_','S','T','R','E','A','M'], .pseudo .crcStream),
   (['L','R','C','_','S','T','R','E','A','M'], .pseudo .lrcStream)]

/-- The mnemonic at the start of a text and what follows it: it ends before the first space or comma. -/
def takeMnemonic : List Char → List Char × List Char
  | [] => ([], [])
  | c :: cs =>
    if c = ' ' ∨ c = ',' then ([], c :: cs)
    else
      let read := takeMnemonic cs
      (c :: read.1, read.2)

def lookupMnemonic (name : List Char) : List (List Char × MnemonicForm) → Option MnemonicForm
  | [] => none
  | (n, form) :: rest => if n = name then some form else lookupMnemonic name rest

/-- `[b0 ... bk−1]`, the operand of a pseudo-command, up to the end of the line. -/
def parsePseudoBytes (text : List Char) : Option Bytes :=
  match skipSpaces text with
  | '[' :: rest =>
    match parseHexList rest with
    | some (bytes, after) => if skipSpaces after = [] then some bytes else none
    | none => none
  | _ => none

/-- One line of assembler text: the host events it stands for (R49, R50), or `none` where it is not a line of the syntax. -/
def assembleLine (line : List Char) : Option (List HostEvent) :=
  let read := takeMnemonic (skipSpaces line)
  match lookupMnemonic read.1 mnemonicForms with
  | none => none
  | some (.plain i) =>
    match parseWithoutImm8 read.2 with
    | some bytes => some [issueOf bytes i]
    | none => none
  | some (.withImm8 i) =>
    match parseWithImm8 read.2 with
    | some (imm, bytes) => some [issueOf bytes (i imm)]
    | none => none
  | some (.pseudo p) =>
    match parsePseudoBytes read.2 with
    | some bytes => some (p bytes).events
    | none => none

/-! Writing a line. -/

/-- The hex digit of a nibble in source text. -/
def sourceDigit (n : Nat) : Char :=
  if n ≤ 9 then Char.ofNat (48 + n) else Char.ofNat (55 + n)

/-- `hh`. -/
def showByte (b : Byte) : List Char :=
  [sourceDigit (b.toNat / 16), sourceDigit (b.toNat % 16)]

/-- `hh hh ... ]`. -/
def showHexTail : Bytes → List Char
  | [] => [']']
  | b :: bytes => showByte b ++ [' '] ++ showHexTail bytes

/-- `IN = [ hh hh ... ]`. -/
def showIn (input : Bytes) : List Char :=
  ['I', 'N', ' ', '=', ' ', '[', ' '] ++ showHexTail input

/-- The `IMM8` operand, written only for the commands that have one (R49). -/
def showImm8 : Instr → Option (List Char)
  | .crcFeed b => some (['0', 'x'] ++ showByte b)
  | .lrcFeed b => some (['0', 'x'] ++ showByte b)
  | .encodeRtu a => some (['0', 'x'] ++ showByte a)
  | .encodeAscii a => some (['0', 'x'] ++ showByte a)
  | .crcInit | .crcRead | .crcCompute | .crcValidate | .lrcInit | .lrcRead | .lrcCompute | .lrcValidate
  | .decodeRtu | .decodeAscii | .rtuToAscii | .asciiToRtu => none

/-- A command and its `IN` as a line of assembler text. -/
def showLine (i : Instr) (input : Bytes) : List Char :=
  match showImm8 i with
  | some imm => i.mnemonic.toList ++ [' '] ++ imm ++ [',', ' '] ++ showIn input
  | none => i.mnemonic.toList ++ [' '] ++ showIn input

end Sys2Proof.Machine
end

