-- ==== Sys2Proof/Machine/HostView.lean ====
section
/-! DEFINITION. What a host reads off a Result: whether its fields may be used (spec/70_reset_and_hazards.md R96, R97) and which of
the source's counters it counts (spec/60_exceptions.md R91). The block keeps no counter: these are functions of one Result
(log 17). -/

namespace Sys2Proof.Machine

/-- A decoded Result the host may act on: `STATUS` is tested first (R97), then `CHK_OK` (R96). -/
def Result.usable (r : Result) : Bool :=
  decide (r.status = .ok) && r.chkOk

/-- The source's counters a decoder Result is counted in (R91). -/
inductive BusCounter where
  | busMessageCount
  | busCommunicationErrorCount
  | slaveNoResponseCount
  deriving DecidableEq, Repr

/-- "checksum/length failure": `STATUS` 0 with a bad check, or `STATUS` 1, 2 or 3 (R91, D31). -/
def Result.isFailure (r : Result) : Bool :=
  match r.status with
  | .ok => ! r.chkOk
  | .rangeLength | .rangeMarker | .rangeHex => true
  | .rangePdu | .profileMismatch | .illegalCmd => false

/-- The counters a Result of DECODE_RTU or DECODE_ASCII counts in (R91): a valid frame, a failure, and besides a valid frame to the
broadcast address. -/
def countedEvents (r : Result) : List BusCounter :=
  (if r.usable then [.busMessageCount] else [])
    ++ (if r.isFailure then [.busCommunicationErrorCount] else [])
    ++ (if r.usable && decide (r.addrClass = .broadcast) then [.slaveNoResponseCount] else [])

end Sys2Proof.Machine
end

