-- ==== Sys2Proof/Machine/Instances.lean ====
section
/-! DEFINITION. Several instances of the block (spec/60_exceptions.md R88): each has a state and a host of its own and nothing is
shared. One step of the whole is one step of one instance (log 15). -/

namespace Sys2Proof.Machine

/-- Instance `k` of `fleet` makes one step; the others keep their states (R88). -/
def stepAt (k : Nat) (fleet : List State) : Host.Outcome (List State) Fault Refusal :=
  match fleet[k]? with
  | none => .refused .noSuchInstance
  | some s =>
    match step s with
    | .next t => .next (fleet.set k t)
    | .fault e => .fault e
    | .refused r => .refused r

end Sys2Proof.Machine
end

