-- ==== Sys2Proof/Safety.lean ====
section
/-! DEFINITION. What a safe state and a safe host are: the invariant every step keeps, and a host that issues only what can be
issued. -/

namespace Sys2Proof.Machine

/-- A Result as the spec lets one be. On an error every other field has its default (spec/10_state.md R19,
spec/60_exceptions.md R81). `CHK_OK` is true only where the two check fields agree (R20). `ADDR_CLASS` is NONE beside the default
address, or the class of `ADDR` (R21). `OUT` has at most 513 bytes (R18), or, since DECODE_RTU has no upper bound (R69), as many as
an `IN` of `MAX_IN_LEN` bytes holds between address and CRC (log 8). -/
def Result.wf (p : Params) (r : Result) : Bool :=
  decide (r.status = .ok ∨ r = { status := r.status })
    && decide (r.chkOk = true → r.rxCheck = r.calcCheck)
    && decide ((r.addrClass = .none ∧ r.addr = 0x00#8) ∨ r.addrClass = addrClassOf r.addr)
    && decide (r.out.length ≤ max 513 (p.maxInLen - 3))

/-- The invariant: the parameters are an instance's (R9) and the Result of the last step is well formed. -/
def State.inv (s : State) : Bool :=
  s.params.wf &&
    match s.result with
    | none => true
    | some r => r.wf s.params

/-- A host that issues only commands whose `IN` fits the capacity (R25). -/
def State.hostOk (s : State) : Bool :=
  s.issue.all (HostEvent.wf s.params)

end Sys2Proof.Machine
end

