-- ==== Sys2Proof/Certificates/Slice0/Obligations.lean ====
section
/-! DEFINITION. The statements for the provers. Each formalises rules of spec/; its docstring names them. Numerals of a rule are
written out here, so that a statement does not lean on the model's constants. The frame of a command is part of its statement: the
next state is written as the state before it with the changed fields named, and every field not named is unchanged. -/

namespace Sys2Proof.Claims

open Sys2Proof.Machine

/-- The Result of an error: its status, every other field at its default (R19, R81), written out. -/
def failed (c : Status) : Result :=
  { status := c, chkOk := false, value := 0, rxCheck := 0, calcCheck := 0, addr := 0, addrClass := .none, out := [] }

/-- The command ends with the Result `r` and changes nothing but the host interface. -/
def answers (i : Instr) (s : State) (r : Result) : Prop :=
  exec i s = .next { s with issue := s.issue.tail, result := some r }

/-- Opcode `op` takes no operand: with any other `IMM8` than 0x00, issued in any state, it ends with ILLEGAL_CMD and changes nothing
but the host interface (R37). -/
def refusesOperand (op : Nat) : Prop :=
  ∀ (s : State) (w : CmdWord) (input : Bytes) (rest : List HostEvent),
    s.issue = .command w input :: rest → input.length ≤ s.params.maxInLen →
    w.toNat / 256 = op → w.toNat % 256 ≠ 0 →
      step s = .next { s with issue := rest, result := some (failed .illegalCmd) }

/-- The command word `w` is the command `i`, and is the word the encoder writes for it. -/
def wordOf (w : CmdWord) (i : Instr) : Prop := decode w = .ok i ∧ encode i = w

/-- `HEXDEC(t)` is `r` (R44): twice as many characters as bytes, every character a digit, the first of each pair the high nibble. -/
def hexText (lower : Bool) (t r : Bytes) : Prop :=
  t.length = 2 * r.length ∧
  ∀ k, k < r.length → ∃ hi lo, hexVal lower (t.getD (2 * k) 0) = some hi ∧ hexVal lower (t.getD (2 * k + 1) 0) = some lo ∧
    (r.getD k 0).toNat = 16 * hi + lo

/-- The uppercase hex digits in order of value, as the codes of R42. -/
def upperDigits : Bytes :=
  [0x30, 0x31, 0x32, 0x33, 0x34, 0x35, 0x36, 0x37, 0x38, 0x39, 0x41, 0x42, 0x43, 0x44, 0x45, 0x46]

/-- The reserved opcodes (R38). -/
def isReservedOp (op : Nat) : Prop :=
  op = 0x00 ∨ op = 0x06 ∨ op = 0x07 ∨ op = 0x0D ∨ op = 0x0E ∨ op = 0x0F ∨ (0x16 ≤ op ∧ op ≤ 0xFF)

/-- The opcodes whose `IMM8` must be 0x00 (R35, R37). -/
def operandFreeOps : List Nat := [0x01, 0x03, 0x04, 0x05, 0x08, 0x0A, 0x0B, 0x0C, 0x11, 0x13, 0x14, 0x15]

/-- The six commands that compare a check field (R20). -/
def comparesCheck : Instr → Bool
  | .crcValidate | .lrcValidate | .decodeRtu | .decodeAscii | .rtuToAscii | .asciiToRtu => true
  | .crcInit | .crcFeed _ | .crcRead | .crcCompute | .lrcInit | .lrcFeed _ | .lrcRead | .lrcCompute
  | .encodeRtu _ | .encodeAscii _ => false

/-- The four commands that change a register (R11, R12). -/
def changesRegister : Instr → Bool
  | .crcInit | .crcFeed _ | .lrcInit | .lrcFeed _ => true
  | .crcRead | .crcCompute | .crcValidate | .lrcRead | .lrcCompute | .lrcValidate
  | .encodeRtu _ | .decodeRtu | .encodeAscii _ | .decodeAscii | .rtuToAscii | .asciiToRtu => false

/-- The profile a command needs, if it needs one (R35, R36). -/
def neededProfile : Instr → Option Profile
  | .encodeRtu _ | .decodeRtu => some .rtu
  | .encodeAscii _ | .decodeAscii => some .ascii
  | .crcInit | .crcFeed _ | .crcRead | .crcCompute | .crcValidate | .lrcInit | .lrcFeed _ | .lrcRead | .lrcCompute
  | .lrcValidate | .rtuToAscii | .asciiToRtu => none

/-- The first failing check of `ascii_split` (R71, R82), or OK. -/
def asciiStatus (lower : Bool) (frame : Bytes) : Status :=
  if frame.length < 11 then .rangeLength
  else if frame.head? ≠ some 0x3A ∨ frame.drop (frame.length - 2) ≠ [0x0D, 0x0A] then .rangeMarker
  else if (frame.length - 3) % 2 ≠ 0 then .rangeHex
  else if ((frame.drop 1).take (frame.length - 3)).any (fun c => (hexVal lower c).isNone) then .rangeHex
  else .ok

/-- The status of a command's own checks (R59, R64, R68 to R73, R78), in the order its pseudocode lists them. -/
def ownStatus (lower : Bool) (op : Nat) (input : Bytes) : Status :=
  if op = 0x05 then (if input.length < 2 then .rangeLength else .ok)
  else if op = 0x0C then (if input.length < 1 then .rangeLength else .ok)
  else if op = 0x10 ∨ op = 0x12 then (if input.length < 1 ∨ 253 < input.length then .rangePdu else .ok)
  else if op = 0x11 then (if input.length < 4 then .rangeLength else .ok)
  else if op = 0x13 then asciiStatus lower input
  else if op = 0x14 then
    (if input.length < 4 then .rangeLength else if 256 < input.length then .rangePdu else .ok)
  else if op = 0x15 then
    (if asciiStatus lower input ≠ .ok then asciiStatus lower input
     else if 513 < input.length then .rangePdu else .ok)
  else .ok

/-- The first failing check of a command word with its `IN`, in the order of R82. -/
def expectedStatus (profile : Profile) (lower : Bool) (w : CmdWord) (input : Bytes) : Status :=
  let op := w.toNat / 256
  let imm := w.toNat % 256
  if op = 0x00 ∨ op = 0x06 ∨ op = 0x07 ∨ op = 0x0D ∨ op = 0x0E ∨ op = 0x0F ∨ 0x16 ≤ op then .illegalCmd
  else if op ∈ operandFreeOps ∧ imm ≠ 0 then .illegalCmd
  else if (op = 0x10 ∨ op = 0x11) ∧ profile ≠ .rtu then .profileMismatch
  else if (op = 0x12 ∨ op = 0x13) ∧ profile ≠ .ascii then .profileMismatch
  else ownStatus lower op input

end Sys2Proof.Claims

open Sys2Proof Sys2Proof.Machine Sys2Proof.Claims

/-! Reset, the step, the host interface. -/

/-- R92 with R22: a reset asserted by the host sets CRC and LRC_SUM to their reset values and leaves everything else of the block
alone; it returns no Result and always completes. Power-on is a reset, for every profile and parameters. -/
def Obligations.ResetSetsBothRegisters : Prop :=
  (∀ (s : State) (rest : List HostEvent), s.issue = .reset :: rest →
    step s = .next { s with crc := 0xFFFF, lrcSum := 0x00, issue := rest, result := none }) ∧
  (∀ (p : Profile) (prm : Params),
    State.powerOn p prm = { crc := 0xFFFF, lrcSum := 0x00, profile := p, params := prm, issue := [], result := none })

/-- The state after power-on meets the invariant, for every profile and all parameters an instance can have; State.reset is one of
them (its profile and capacity are the model's choice, log 4 and log 5). -/
def Obligations.PowerOnMeetsInvariant : Prop :=
  (∀ (p : Profile) (prm : Params), 513 ≤ prm.maxInLen → (State.powerOn p prm).inv = true) ∧ State.reset.inv = true

/-- Every step from every state that meets the invariant leads to one that meets it: the capacity stays at least 513 (R9), an error
Result has every other field at its default (R81), CHK_OK is true only for equal check fields (R20), ADDR_CLASS is the class of
ADDR (R21), and OUT is bounded (R18 and R69, log 8). -/
def Obligations.EveryStepKeepsInvariant : Prop :=
  ∀ s t : State, s.inv = true → step s = .next t → t.inv = true

/-- R30, R39: where the host issues a word that decodes to `i`, with an `IN` that fits, the step is exactly `i`'s; and the word a
test places with `withFetchWord` is the one the next step runs (log 10). -/
def Obligations.StepRunsTheIssuedCommand : Prop :=
  (∀ (s : State) (w : CmdWord) (input : Bytes) (rest : List HostEvent) (i : Instr),
    s.issue = .command w input :: rest → input.length ≤ s.params.maxInLen → decode w = .ok i →
      step s = exec i s) ∧
  (∀ (s : State) (i : Instr),
    step (s.withFetchWord 16 (encode i).toNat) = exec i { s with issue := .command (encode i) [] :: s.issue })

/-- R25: a command whose `IN` is longer than MAX_IN_LEN has no step, and nothing else stops the machine: every other state has a
next one, whatever the command word. Two parts are the model's choice: that "no step" takes the form of a refusal (log 7, DEDUCED),
and that a state with nothing issued has a next one, an idle step (log 3, DESIGN CHOICE). -/
def Obligations.OnlyOverlongInputHasNoStep : Prop :=
  ∀ s : State,
    (∃ w input rest, s.issue = .command w input :: rest ∧ s.params.maxInLen < input.length ∧
      step s = .refused .inputOverCapacity) ∨
    ((∀ w input rest, s.issue = .command w input :: rest → input.length ≤ s.params.maxInLen) ∧ ∃ t, step s = .next t)

/-- R1, R90: while the host does nothing, the block does nothing and holds its state. That this is a step of the model at all, and
one that returns no Result, is the model's choice (log 3). -/
def Obligations.BlockNeverStartsAnAction : Prop :=
  ∀ (s : State) (k : Nat), s.issue = [] → runSteps (k + 1) s = .next { s with result := none }

/-- R7, R13, R14: no step of any kind changes PROFILE or a construction parameter. -/
def Obligations.NoStepChangesConfiguration : Prop :=
  ∀ s t : State, step s = .next t → t.profile = s.profile ∧ t.params = s.params

/-- R7, R9, R94: an instance can be built for RTU and ASCII with any capacity of at least 513, is then as after power-on, and is
refused for TCP. That it is refused for a smaller capacity is the model's choice (log 6, DEDUCED): R9 says only that the capacity must
be at least 513, and what I5 says of TCP is carried over. -/
def Obligations.TcpAndSmallCapacityAreRefused : Prop :=
  ∀ prm : Params,
    State.construct .tcp prm = .refused .profileTcp ∧
    (513 ≤ prm.maxInLen →
      State.construct .rtu prm = .next (State.powerOn .rtu prm) ∧
      State.construct .ascii prm = .next (State.powerOn .ascii prm)) ∧
    (prm.maxInLen < 513 →
      State.construct .rtu prm = .refused .capacityBelowMinimum ∧
      State.construct .ascii prm = .refused .capacityBelowMinimum)

/-- R25, R84, R99: where every event the host has still to make can be issued, the machine runs on for as long as one likes, errors
among the commands or not, and takes one event a step, in order. That it also runs on when the events are used up, by idle steps, is
the model's choice (log 3, DESIGN CHOICE). -/
def Obligations.RunsNeverStop : Prop :=
  ∀ (k : Nat) (s : State), s.hostOk = true →
    ∃ t, runSteps k s = .next t ∧ t.issue = s.issue.drop k ∧ t.hostOk = true

/-- R31: a step sees nothing of what the host does later. -/
def Obligations.LaterEventsAreNotSeen : Prop :=
  ∀ (s t : State) (e : HostEvent) (rest other : List HostEvent), s.issue = e :: rest → step s = .next t →
    step { s with issue := e :: other } = .next { t with issue := other }

/-- R18, R84: no step reads the Result of the step before, so no status is sticky: from states that differ only in that Result a
step has the same outcome. -/
def Obligations.NoStepReadsTheLastResult : Prop :=
  ∀ (s : State) (r : Option Result), step { s with result := r } = step s

/-- R88: instances share nothing. A step of one leaves every other as it was, and steps of two instances give the same fleet in
either order. -/
def Obligations.InstancesAreIndependent : Prop :=
  ∀ (fleet f g : List State) (j k : Nat), j ≠ k → stepAt j fleet = .next f → stepAt k fleet = .next g →
    f[k]? = fleet[k]? ∧ ∃ both, stepAt k f = .next both ∧ stepAt j g = .next both

/-! Encoding. -/

/-- R33, R35, R37, R39: decoding the word of a command gives the command, with every operand byte; and each command word has one
meaning: a word that decodes is the word of what it decodes to. -/
def Obligations.DecodeAndEncodeAgree : Prop :=
  (∀ i : Instr, decode (encode i) = .ok i) ∧ ∀ (w : CmdWord) (i : Instr), decode w = .ok i → encode i = w

/-- R35: a word is a row's of spec/opcode_table.json, by its mask and match, exactly when it decodes to a command of that mnemonic,
whose operand is `IMM8` (R34). -/
def Obligations.DecoderFollowsOpcodeTable : Prop :=
  ∀ (w : CmdWord) (row : OpcodeRow), row ∈ opcodeTable →
    (w &&& row.mask = row.pattern ↔
      ∃ i : Instr, decode w = .ok i ∧ i.mnemonic = row.mnemonic ∧ i.operand.toNat = w.toNat % 256)

/-- A few words written out from the spec: the three of R49 and one of each other family (R35). -/
def Obligations.WrittenWordsDecode : Prop :=
  decode 0x020A = .ok (.crcFeed 0x0A) ∧ decode 0x100A = .ok (.encodeRtu 0x0A) ∧ decode 0x1300 = .ok .decodeAscii ∧
  decode 0x0500 = .ok .crcValidate ∧ decode 0x0911 = .ok (.lrcFeed 0x11) ∧ decode 0x12F8 = .ok (.encodeAscii 0xF8) ∧
  decode 0x1400 = .ok .rtuToAscii ∧ decode 0x0000 = .error (.reservedOp 0x00) ∧
  decode 0x0301 = .error (.reservedImm 0x03 0x01)

/-- R37, R38: a reserved opcode, with any `IMM8`, and a non-zero `IMM8` where it must be 0x00, end with ILLEGAL_CMD and change
nothing but the host interface. -/
def Obligations.IllegalWordsRaiseIllegalCmd : Prop :=
  (∀ (s : State) (w : CmdWord) (input : Bytes) (rest : List HostEvent),
    s.issue = .command w input :: rest → input.length ≤ s.params.maxInLen → isReservedOp (w.toNat / 256) →
      step s = .next { s with issue := rest, result := some (failed .illegalCmd) }) ∧
  ∀ op ∈ operandFreeOps, refusesOperand op

/-- R36: on another profile than the one it needs, each of the four per-profile commands ends with PROFILE_MISMATCH and does nothing
else; the other commands run the same under either profile. -/
def Obligations.ProfileGatesFourCommands : Prop :=
  (∀ (i : Instr) (s : State) (p : Profile), neededProfile i = some p → s.profile ≠ p →
    answers i s (failed .profileMismatch)) ∧
  (∀ (i : Instr) (s t : State) (p : Profile), neededProfile i = none → exec i s = .next t →
    exec i { s with profile := p } = .next { t with profile := p })

/-- R49: a line of assembler text written for a command and its `IN` assembles to that command's word with that `IN`. -/
def Obligations.AssemblerReadsWhatItWrites : Prop :=
  ∀ (i : Instr) (input : Bytes), assembleLine (showLine i input) = some [.command (encode i) input]

/-- R49, R50: the three example lines of R49, a pseudo-command besides. -/
def Obligations.ExampleLinesAssemble : Prop :=
  assembleLine "CRC_FEED 0x0A".toList = some [.command 0x020A []] ∧
  assembleLine "ENCODE_RTU 10, IN=[03 00 00 00 02]".toList = some [.command 0x100A [0x03, 0x00, 0x00, 0x00, 0x02]] ∧
  assembleLine "DECODE_ASCII IN=\":0A0300000002F1\\r\\n\"".toList
    = some [.command 0x1300 [0x3A, 0x30, 0x41, 0x30, 0x33, 0x30, 0x30, 0x30, 0x30, 0x30, 0x30, 0x30, 0x32, 0x46, 0x31, 0x0D,
      0x0A]] ∧
  assembleLine "LRC_STREAM [0A 03]".toList
    = some [.command 0x0800 [], .command 0x090A [], .command 0x0903 [], .command 0x0A00 []]

/-! Checksum functions. -/

/-- R52: CRC_SHIFT on the number the register holds, eight shifts a byte after the byte is XORed into the low bits, the bytes of a
sequence in order from 0xFFFF, no final XOR. -/
def Obligations.CrcIsEightShiftsPerByte : Prop :=
  (∀ r : Half, (crcShift r).toNat = if r.toNat % 2 = 1 then (r.toNat / 2) ^^^ 0xA001 else r.toNat / 2) ∧
  (∀ (r : Half) (b : Byte), crcByte r b = crcShift^[8] (r ^^^ BitVec.ofNat 16 b.toNat)) ∧
  crc16 [] = 0xFFFF ∧
  (∀ (s : Bytes) (b : Byte), crc16 (s ++ [b]) = crcByte (crc16 s) b)

/-- R53: LRC8 is the two's complement of the byte sum, in both of the forms the rule gives, and 0 for the empty sequence. -/
def Obligations.LrcIsNegatedByteSum : Prop :=
  (∀ s : Bytes, (lrc8 s).toNat = (256 - (s.map BitVec.toNat).sum % 256) % 256) ∧
  (∀ s : Bytes, (lrc8 s).toNat = (0x100 - (s.foldl (· + ·) (0 : Byte)).toNat) &&& 0xFF) ∧
  lrc8 [] = 0

/-- R67: a sequence with its LRC sums to 0 mod 256; LRC_VALIDATE is true exactly when all of a non-empty `IN` sums to 0 mod 256; a
sequence with its own two CRC bytes has CRC 0x0000. -/
def Obligations.CheckedSequencesHaveZeroResidue : Prop :=
  (∀ s : Bytes, (((s ++ [lrc8 s]).map BitVec.toNat).sum) % 256 = 0) ∧
  (∀ s : State, s.input ≠ [] → ∃ r, answers .lrcValidate s r ∧ r.status = .ok ∧
    (r.chkOk = true ↔ (s.input.map BitVec.toNat).sum % 256 = 0)) ∧
  (∀ s : Bytes, crc16 (s ++ [(crc16 s).extractLsb' 0 8, (crc16 s).extractLsb' 8 8]) = 0x0000)

/-- R27: a CRC goes low byte first onto the wire, and two wire bytes read back as the same value. -/
def Obligations.CrcGoesLowByteFirst : Prop :=
  (∀ c : Half, crcWire c = [BitVec.ofNat 8 (c.toNat % 256), BitVec.ofNat 8 (c.toNat / 256)]) ∧
  (∀ b0 b1 : Byte, (crcOfWire b0 b1).toNat = b0.toNat + 256 * b1.toNat) ∧
  (∀ b0 b1 : Byte, crcWire (crcOfWire b0 b1) = [b0, b1])

/-! CRC commands. -/

/-- R55, CRC_INIT. -/
def Obligations.CrcInitStartsAStream : Prop :=
  wordOf 0x0100 .crcInit ∧ refusesOperand 0x01 ∧
  ∀ s : State, exec .crcInit s = .next { s with crc := 0xFFFF, issue := s.issue.tail, result := some {} }

/-- R56, CRC_FEED, with the rule's examples: every `IMM8` is a data byte, and a register fed its own two bytes, low first, ends at
0x0000. -/
def Obligations.CrcFeedTakesOneByte : Prop :=
  (∀ b : Byte, wordOf (BitVec.ofNat 16 (0x0200 + b.toNat)) (.crcFeed b)) ∧
  (∀ (s : State) (b : Byte),
    exec (.crcFeed b) s = .next { s with crc := crcByte s.crc b, issue := s.issue.tail, result := some {} }) ∧
  crcByte 0xFFFF 0x0A = 0x473F ∧ crcByte 0xFFFF 0x00 = 0x40BF ∧
  ∀ c : Half, crcByte (crcByte c (c.extractLsb' 0 8)) (c.extractLsb' 8 8) = 0x0000

/-- R57, CRC_READ. -/
def Obligations.CrcReadReturnsTheRegister : Prop :=
  wordOf 0x0300 .crcRead ∧ refusesOperand 0x03 ∧
  ∀ s : State, answers .crcRead s { value := s.crc, out := [s.crc.extractLsb' 0 8, s.crc.extractLsb' 8 8] }

/-- R58, CRC_COMPUTE. -/
def Obligations.CrcComputeReturnsCrcOfInput : Prop :=
  wordOf 0x0400 .crcCompute ∧ refusesOperand 0x04 ∧
  (∀ s : State, answers .crcCompute s
    { value := crc16 s.input, out := [(crc16 s.input).extractLsb' 0 8, (crc16 s.input).extractLsb' 8 8] }) ∧
  crc16 [] = 0xFFFF ∧ crc16 [0x0A, 0x03, 0x00, 0x00, 0x00, 0x02] = 0x70C5

/-- R59, CRC_VALIDATE, for every `IN`: too short, or a payload and two CRC bytes, low first. -/
def Obligations.CrcValidateComparesTrailingCrc : Prop :=
  wordOf 0x0500 .crcValidate ∧ refusesOperand 0x05 ∧
  (∀ s : State, s.input.length < 2 → answers .crcValidate s (failed .rangeLength)) ∧
  (∀ (s : State) (payload : Bytes) (b0 b1 : Byte), s.input = payload ++ [b0, b1] →
    answers .crcValidate s
      { chkOk := decide (b0.toNat + 256 * b1.toNat = (crc16 payload).toNat),
        rxCheck := BitVec.ofNat 16 (b0.toNat + 256 * b1.toNat), calcCheck := crc16 payload }) ∧
  (∀ (s : State) (payload : Bytes) (b0 b1 : Byte), b0.toNat + 256 * b1.toNat = (crc16 payload).toNat →
    s.input = payload ++ [b1, b0] →
    ∃ r, answers .crcValidate s r ∧ (r.chkOk = true ↔ b0 = b1))

/-! LRC commands. -/

/-- R60, LRC_INIT. -/
def Obligations.LrcInitStartsAStream : Prop :=
  wordOf 0x0800 .lrcInit ∧ refusesOperand 0x08 ∧
  ∀ s : State, exec .lrcInit s = .next { s with lrcSum := 0x00, issue := s.issue.tail, result := some {} }

/-- R61, LRC_FEED: every `IMM8` is a data byte, and the sum wraps. -/
def Obligations.LrcFeedAddsOneByte : Prop :=
  (∀ b : Byte, wordOf (BitVec.ofNat 16 (0x0900 + b.toNat)) (.lrcFeed b)) ∧
  (∀ (s : State) (b : Byte),
    exec (.lrcFeed b) s = .next { s with lrcSum := s.lrcSum + b, issue := s.issue.tail, result := some {} })

/-- R62, LRC_READ. -/
def Obligations.LrcReadReturnsNegatedSum : Prop :=
  wordOf 0x0A00 .lrcRead ∧ refusesOperand 0x0A ∧
  ∀ s : State, ∃ l : Byte, l.toNat = (256 - s.lrcSum.toNat) % 256 ∧
    answers .lrcRead s { value := BitVec.ofNat 16 l.toNat, out := [l] }

/-- R63, LRC_COMPUTE. -/
def Obligations.LrcComputeReturnsLrcOfInput : Prop :=
  wordOf 0x0B00 .lrcCompute ∧ refusesOperand 0x0B ∧
  (∀ s : State, answers .lrcCompute s { value := BitVec.ofNat 16 (lrc8 s.input).toNat, out := [lrc8 s.input] }) ∧
  lrc8 [] = 0x00 ∧ lrc8 [0xFF, 0x01] = 0x00 ∧ lrc8 [0x80] = 0x80

/-- R64, LRC_VALIDATE, for every `IN`: empty, or a payload and one LRC byte; it validates exactly when all of `IN` sums to 0. -/
def Obligations.LrcValidateComparesTrailingLrc : Prop :=
  wordOf 0x0C00 .lrcValidate ∧ refusesOperand 0x0C ∧
  (∀ s : State, s.input = [] → answers .lrcValidate s (failed .rangeLength)) ∧
  (∀ (s : State) (payload : Bytes) (l : Byte), s.input = payload ++ [l] →
    answers .lrcValidate s
      { chkOk := decide (l = lrc8 payload), rxCheck := BitVec.ofNat 16 l.toNat,
        calcCheck := BitVec.ofNat 16 (lrc8 payload).toNat } ∧
    (l = lrc8 payload ↔ (s.input.map BitVec.toNat).sum % 256 = 0))

/-! Hex digits, frames, addresses. -/

/-- R43, R28: two uppercase digits a byte, high nibble first. -/
def Obligations.HexEncodingIsUppercaseHighNibbleFirst : Prop :=
  ∀ s : Bytes, (hexEnc s).length = 2 * s.length ∧
    ∀ k, k < s.length →
      (hexEnc s)[2 * k]? = upperDigits[(s.getD k 0).toNat / 16]? ∧
      (hexEnc s)[2 * k + 1]? = upperDigits[(s.getD k 0).toNat % 16]?

/-- R44: the value of every character, lowercase letters only when accepted, and HEXDEC, defined exactly on the texts of an even
number of digits, with the bytes the rule gives. -/
def Obligations.HexDecodingIsExact : Prop :=
  (∀ (lower : Bool) (ch : Byte) (v : Nat), hexVal lower ch = some v ↔
    (0x30 ≤ ch.toNat ∧ ch.toNat ≤ 0x39 ∧ v = ch.toNat - 0x30) ∨
    (0x41 ≤ ch.toNat ∧ ch.toNat ≤ 0x46 ∧ v = ch.toNat - 0x41 + 10) ∨
    (lower = true ∧ 0x61 ≤ ch.toNat ∧ ch.toNat ≤ 0x66 ∧ v = ch.toNat - 0x61 + 10)) ∧
  (∀ (lower : Bool) (t r : Bytes), hexDec lower t = some r ↔ hexText lower t r)

/-- R6, R48: the lengths of encoded frames, and so the largest of each. -/
def Obligations.FrameLengthsFollowThePdu : Prop :=
  ∀ (a : Byte) (p : Bytes), (rtuFrame a p).length = p.length + 3 ∧ (asciiFrame a p).length = 2 * p.length + 7 ∧
    (p.length ≤ 253 → (rtuFrame a p).length ≤ 256 ∧ (asciiFrame a p).length ≤ 513)

/-- R47, with the codes of R21: the class of every address; the encoders take any address; whether a decoder or converter accepts a
frame does not depend on its address, which it returns with its class. -/
def Obligations.AddressesAreClassifiedNotRefused : Prop :=
  (∀ a : Byte, (addrClassOf a).code = if a.toNat = 0 then 1 else if a.toNat ≤ 247 then 2 else 3) ∧
  (∀ (a : Byte) (s : State), 1 ≤ s.input.length → s.input.length ≤ 253 →
    (s.profile = .rtu → ∃ r, answers (.encodeRtu a) s r ∧ r.status = .ok ∧ r.addrClass = .none) ∧
    (s.profile = .ascii → ∃ r, answers (.encodeAscii a) s r ∧ r.status = .ok ∧ r.addrClass = .none)) ∧
  (∀ (a : Byte) (s : State) (rest : Bytes), s.input = a :: rest → 3 ≤ rest.length →
    (s.profile = .rtu → ∃ r, answers .decodeRtu s r ∧ r.status = .ok ∧ r.addr = a ∧ r.addrClass = addrClassOf a) ∧
    (rest.length ≤ 255 → ∃ r, answers .rtuToAscii s r ∧ r.status = .ok ∧ r.addr = a ∧ r.addrClass = addrClassOf a)) ∧
  (∀ (a : Byte) (s : State) (t rest : Bytes), s.input = [0x3A] ++ t ++ [0x0D, 0x0A] → 3 ≤ rest.length →
    hexText s.params.asciiAcceptLowercase t (a :: rest) →
    (s.profile = .ascii → ∃ r, answers .decodeAscii s r ∧ r.status = .ok ∧ r.addr = a ∧ r.addrClass = addrClassOf a) ∧
    (rest.length ≤ 254 → ∃ r, answers .asciiToRtu s r ∧ r.status = .ok ∧ r.addr = a ∧ r.addrClass = addrClassOf a))

/-! Codec commands. -/

/-- R68, ENCODE_RTU, for every `IN` and profile. -/
def Obligations.EncodeRtuWritesTheFrame : Prop :=
  (∀ a : Byte, wordOf (BitVec.ofNat 16 (0x1000 + a.toNat)) (.encodeRtu a)) ∧
  (∀ (s : State) (a : Byte), s.profile ≠ .rtu → answers (.encodeRtu a) s (failed .profileMismatch)) ∧
  (∀ (s : State) (a : Byte), s.profile = .rtu → s.input.length < 1 ∨ 253 < s.input.length →
    answers (.encodeRtu a) s (failed .rangePdu)) ∧
  (∀ (s : State) (a : Byte), s.profile = .rtu → 1 ≤ s.input.length → s.input.length ≤ 253 →
    answers (.encodeRtu a) s
      { value := crc16 ([a] ++ s.input),
        out := [a] ++ s.input ++ [(crc16 ([a] ++ s.input)).extractLsb' 0 8, (crc16 ([a] ++ s.input)).extractLsb' 8 8] })

/-- R69, DECODE_RTU, for every `IN` and profile: too short, or an address, a PDU of at least one byte and two CRC bytes. -/
def Obligations.DecodeRtuReadsTheFrame : Prop :=
  wordOf 0x1100 .decodeRtu ∧ refusesOperand 0x11 ∧
  (∀ s : State, s.profile ≠ .rtu → answers .decodeRtu s (failed .profileMismatch)) ∧
  (∀ s : State, s.profile = .rtu → s.input.length < 4 → answers .decodeRtu s (failed .rangeLength)) ∧
  (∀ (s : State) (a : Byte) (p : Bytes) (b0 b1 : Byte), s.profile = .rtu → p ≠ [] → s.input = [a] ++ p ++ [b0, b1] →
    answers .decodeRtu s
      { addr := a, addrClass := addrClassOf a, out := p,
        chkOk := decide (b0.toNat + 256 * b1.toNat = (crc16 ([a] ++ p)).toNat),
        rxCheck := BitVec.ofNat 16 (b0.toNat + 256 * b1.toNat), calcCheck := crc16 ([a] ++ p) })

/-- R70, ENCODE_ASCII, for every `IN` and profile. -/
def Obligations.EncodeAsciiWritesTheFrame : Prop :=
  (∀ a : Byte, wordOf (BitVec.ofNat 16 (0x1200 + a.toNat)) (.encodeAscii a)) ∧
  (∀ (s : State) (a : Byte), s.profile ≠ .ascii → answers (.encodeAscii a) s (failed .profileMismatch)) ∧
  (∀ (s : State) (a : Byte), s.profile = .ascii → s.input.length < 1 ∨ 253 < s.input.length →
    answers (.encodeAscii a) s (failed .rangePdu)) ∧
  (∀ (s : State) (a : Byte), s.profile = .ascii → 1 ≤ s.input.length → s.input.length ≤ 253 →
    answers (.encodeAscii a) s
      { value := BitVec.ofNat 16 (lrc8 ([a] ++ s.input)).toNat,
        out := [0x3A] ++ hexEnc ([a] ++ s.input ++ [lrc8 ([a] ++ s.input)]) ++ [0x0D, 0x0A] })

/-- R71, DECODE_ASCII, for every `IN` and profile, each check in the rule's order; a frame that passes them is `:`, the hex of an
address, a PDU and an LRC byte, and CR LF. -/
def Obligations.DecodeAsciiReadsTheFrame : Prop :=
  wordOf 0x1300 .decodeAscii ∧ refusesOperand 0x13 ∧
  (∀ s : State, s.profile ≠ .ascii → answers .decodeAscii s (failed .profileMismatch)) ∧
  (∀ s : State, s.profile = .ascii → s.input.length < 11 → answers .decodeAscii s (failed .rangeLength)) ∧
  (∀ s : State, s.profile = .ascii → 11 ≤ s.input.length →
    s.input.head? ≠ some 0x3A ∨ s.input.drop (s.input.length - 2) ≠ [0x0D, 0x0A] →
    answers .decodeAscii s (failed .rangeMarker)) ∧
  (∀ (s : State) (t : Bytes), s.profile = .ascii → 8 ≤ t.length → s.input = [0x3A] ++ t ++ [0x0D, 0x0A] →
    t.length % 2 = 1 ∨ (∃ c ∈ t, hexVal s.params.asciiAcceptLowercase c = none) →
    answers .decodeAscii s (failed .rangeHex)) ∧
  (∀ (s : State) (t : Bytes) (a : Byte) (p : Bytes) (l : Byte), s.profile = .ascii → 8 ≤ t.length →
    s.input = [0x3A] ++ t ++ [0x0D, 0x0A] → hexText s.params.asciiAcceptLowercase t ([a] ++ p ++ [l]) →
    answers .decodeAscii s
      { addr := a, addrClass := addrClassOf a, out := p, chkOk := decide (l = lrc8 ([a] ++ p)),
        rxCheck := BitVec.ofNat 16 l.toNat, calcCheck := BitVec.ofNat 16 (lrc8 ([a] ++ p)).toNat })

/-- R72, RTU_TO_ASCII, for every `IN` under either profile. A bad source CRC is reported in CHK_OK and the frame is re-framed all the
same. -/
def Obligations.RtuToAsciiReframes : Prop :=
  wordOf 0x1400 .rtuToAscii ∧ refusesOperand 0x14 ∧
  (∀ s : State, s.input.length < 4 → answers .rtuToAscii s (failed .rangeLength)) ∧
  (∀ s : State, 256 < s.input.length → answers .rtuToAscii s (failed .rangePdu)) ∧
  (∀ (s : State) (a : Byte) (p : Bytes) (b0 b1 : Byte), p ≠ [] → p.length ≤ 253 → s.input = [a] ++ p ++ [b0, b1] →
    answers .rtuToAscii s
      { addr := a, addrClass := addrClassOf a,
        chkOk := decide (b0.toNat + 256 * b1.toNat = (crc16 ([a] ++ p)).toNat),
        rxCheck := BitVec.ofNat 16 (b0.toNat + 256 * b1.toNat), calcCheck := crc16 ([a] ++ p),
        value := BitVec.ofNat 16 (lrc8 ([a] ++ p)).toNat,
        out := [0x3A] ++ hexEnc ([a] ++ p ++ [lrc8 ([a] ++ p)]) ++ [0x0D, 0x0A] })

/-- R73, ASCII_TO_RTU, for every `IN` under either profile, each check in the rule's order. A bad source LRC is reported in CHK_OK
and the frame is re-framed all the same. -/
def Obligations.AsciiToRtuReframes : Prop :=
  wordOf 0x1500 .asciiToRtu ∧ refusesOperand 0x15 ∧
  (∀ s : State, s.input.length < 11 → answers .asciiToRtu s (failed .rangeLength)) ∧
  (∀ s : State, 11 ≤ s.input.length →
    s.input.head? ≠ some 0x3A ∨ s.input.drop (s.input.length - 2) ≠ [0x0D, 0x0A] →
    answers .asciiToRtu s (failed .rangeMarker)) ∧
  (∀ (s : State) (t : Bytes), 8 ≤ t.length → s.input = [0x3A] ++ t ++ [0x0D, 0x0A] →
    t.length % 2 = 1 ∨ (∃ c ∈ t, hexVal s.params.asciiAcceptLowercase c = none) →
    answers .asciiToRtu s (failed .rangeHex)) ∧
  (∀ (s : State) (t : Bytes) (a : Byte) (p : Bytes) (l : Byte), 8 ≤ t.length →
    s.input = [0x3A] ++ t ++ [0x0D, 0x0A] → hexText s.params.asciiAcceptLowercase t ([a] ++ p ++ [l]) →
    (253 < p.length → answers .asciiToRtu s (failed .rangePdu)) ∧
    (p.length ≤ 253 → answers .asciiToRtu s
      { addr := a, addrClass := addrClassOf a, chkOk := decide (l = lrc8 ([a] ++ p)),
        rxCheck := BitVec.ofNat 16 l.toNat, calcCheck := BitVec.ofNat 16 (lrc8 ([a] ++ p)).toNat,
        value := crc16 ([a] ++ p),
        out := [a] ++ p ++ [(crc16 ([a] ++ p)).extractLsb' 0 8, (crc16 ([a] ++ p)).extractLsb' 8 8] }))

/-! Laws of the codec and of streams. -/

/-- R74: DECODE_RTU undoes ENCODE_RTU, for every address and every PDU of 1 to 253 bytes. -/
def Obligations.RtuFramesRoundTrip : Prop :=
  ∀ (s u : State) (a : Byte), s.profile = .rtu → u.profile = .rtu → 1 ≤ s.input.length → s.input.length ≤ 253 →
    ∃ r, answers (.encodeRtu a) s r ∧ r.status = .ok ∧
      (u.input = r.out →
        ∃ q, answers .decodeRtu u q ∧ q.status = .ok ∧ q.addr = a ∧ q.out = s.input ∧ q.chkOk = true)

/-- R75: DECODE_ASCII undoes ENCODE_ASCII, for every address and every PDU of 2 to 253 bytes, whatever
ASCII_ACCEPT_LOWERCASE is. -/
def Obligations.AsciiFramesRoundTrip : Prop :=
  ∀ (s u : State) (a : Byte), s.profile = .ascii → u.profile = .ascii → 2 ≤ s.input.length → s.input.length ≤ 253 →
    ∃ r, answers (.encodeAscii a) s r ∧ r.status = .ok ∧
      (u.input = r.out →
        ∃ q, answers .decodeAscii u q ∧ q.status = .ok ∧ q.addr = a ∧ q.out = s.input ∧ q.chkOk = true)

/-- R76: ENCODE_ASCII accepts a one-byte PDU and makes a frame of 9 characters that DECODE_ASCII and ASCII_TO_RTU refuse with
RANGE_LENGTH, while DECODE_RTU accepts the 4-byte RTU frame of a one-byte PDU. -/
def Obligations.OneBytePduFitsRtuButNotAscii : Prop :=
  (∀ (s u : State) (a fc : Byte), s.profile = .ascii → s.input = [fc] →
    ∃ r, answers (.encodeAscii a) s r ∧ r.status = .ok ∧ r.out.length = 9 ∧
      (u.input = r.out → answers .asciiToRtu u (failed .rangeLength) ∧
        (u.profile = .ascii → answers .decodeAscii u (failed .rangeLength)))) ∧
  (∀ (s u : State) (a fc : Byte), s.profile = .rtu → u.profile = .rtu → s.input = [fc] →
    ∃ r, answers (.encodeRtu a) s r ∧ r.out.length = 4 ∧
      (u.input = r.out → ∃ q, answers .decodeRtu u q ∧ q.status = .ok ∧ q.out = [fc] ∧ q.chkOk = true))

/-- R77 (and R58, R59, R63, R64): the Result of a command that writes no register is a function of the command, `IN`, PROFILE and
ASCII_ACCEPT_LOWERCASE alone; CRC_READ and LRC_READ read their register besides. Such a command changes nothing but the host
interface. -/
def Obligations.PureCommandsDependOnInputAlone : Prop :=
  ∀ (i : Instr) (s u : State), changesRegister i = false → s.input = u.input → s.profile = u.profile →
    s.params.asciiAcceptLowercase = u.params.asciiAcceptLowercase → (i = .crcRead → s.crc = u.crc) →
    (i = .lrcRead → s.lrcSum = u.lrcSum) → ∃ r, answers i s r ∧ answers i u r

/-- R77: for every RTU frame with a matching CRC and a PDU of 2 to 253 bytes, RTU_TO_ASCII and then ASCII_TO_RTU give the frame
back, with CHK_OK true. -/
def Obligations.ConvertersComposeToIdentity : Prop :=
  ∀ (s u : State) (a : Byte) (p : Bytes), 2 ≤ p.length → p.length ≤ 253 →
    s.input = [a] ++ p ++ [(crc16 ([a] ++ p)).extractLsb' 0 8, (crc16 ([a] ++ p)).extractLsb' 8 8] →
    ∃ r, answers .rtuToAscii s r ∧ r.status = .ok ∧ r.chkOk = true ∧
      (u.input = r.out → ∃ q, answers .asciiToRtu u q ∧ q.status = .ok ∧ q.out = s.input ∧ q.chkOk = true)

/-- R96: a converter launders a corrupt frame. Whatever two bytes stand in the CRC field of an RTU frame with a PDU of 2 to 253
bytes, what RTU_TO_ASCII makes of it decodes with CHK_OK true; only the converter's own CHK_OK tells. -/
def Obligations.ConverterHidesCorruption : Prop :=
  ∀ (s u : State) (a : Byte) (p : Bytes) (b0 b1 : Byte), 2 ≤ p.length → p.length ≤ 253 →
    s.input = [a] ++ p ++ [b0, b1] → u.profile = .ascii →
    ∃ r, answers .rtuToAscii s r ∧ r.status = .ok ∧
      (r.chkOk = true ↔ b0.toNat + 256 * b1.toNat = (crc16 ([a] ++ p)).toNat) ∧
      (u.input = r.out →
        ∃ q, answers .decodeAscii u q ∧ q.status = .ok ∧ q.addr = a ∧ q.out = p ∧ q.chkOk = true)

/-- R65, R50: from any state, the expansion of CRC_STREAM ends with CRC = CRC16 of its bytes and with the Result of CRC_COMPUTE on
them; nothing else of the block changes. -/
def Obligations.CrcStreamEqualsCrcCompute : Prop :=
  ∀ (s u : State) (bytes : Bytes), s.issue = (Pseudo.crcStream bytes).events → u.input = bytes →
    ∃ r, answers .crcCompute u r ∧
      runSteps (bytes.length + 2) s
        = .next { s with crc := crc16 bytes, issue := [], result := some r }

/-- R66, R50: from any state, the expansion of LRC_STREAM ends with the Result of LRC_COMPUTE on its bytes; LRC_SUM holds their sum
and nothing else of the block changes. -/
def Obligations.LrcStreamEqualsLrcCompute : Prop :=
  ∀ (s u : State) (bytes : Bytes), s.issue = (Pseudo.lrcStream bytes).events → u.input = bytes →
    ∃ r, answers .lrcCompute u r ∧
      runSteps (bytes.length + 2) s
        = .next { s with lrcSum := BitVec.ofNat 8 ((bytes.map BitVec.toNat).sum % 256), issue := [], result := some r }

/-- R94, R65, R66, R93: after a reset a CRC stream may start without CRC_INIT and an LRC stream without LRC_INIT, and what was fed
before the reset does not matter. That the reset is a step of its own is the model's choice (log 21, DESIGN CHOICE). -/
def Obligations.ResetStartsACrcStream : Prop :=
  (∀ (s u : State) (bytes : Bytes),
    s.issue = [.reset] ++ (bytes.map Instr.crcFeed).map (issueOf []) ++ [issueOf [] .crcRead] → u.input = bytes →
    ∃ r, answers .crcCompute u r ∧
      runSteps (bytes.length + 2) s
        = .next { s with crc := crc16 bytes, lrcSum := 0x00, issue := [], result := some r }) ∧
  (∀ (s u : State) (bytes : Bytes),
    s.issue = [.reset] ++ (bytes.map Instr.lrcFeed).map (issueOf []) ++ [issueOf [] .lrcRead] → u.input = bytes →
    ∃ r, answers .lrcCompute u r ∧
      runSteps (bytes.length + 2) s
        = .next { s with crc := 0xFFFF, lrcSum := BitVec.ofNat 8 ((bytes.map BitVec.toNat).sum % 256), issue := [],
                         result := some r })

/-- R95, R30: a command that writes no register may stand anywhere in a stream: the command after it does what it would have done
without it. -/
def Obligations.PureCommandsInterleaveWithStreams : Prop :=
  ∀ (s : State) (w : CmdWord) (input : Bytes) (i : Instr) (rest : List HostEvent),
    s.issue = .command w input :: rest → input.length ≤ s.params.maxInLen → decode w = .ok i → changesRegister i = false →
    runSteps 2 s = step { s with issue := rest }

/-! Errors and flags. -/

/-- R82, R78: the STATUS of every command word with every `IN` that fits is that of the first failing check, in the order OP, IMM8,
profile, the command's own checks; 0 where none fails. The command always completes. The codes are those of R78. -/
def Obligations.StatusIsTheFirstFailingCheck : Prop :=
  [Status.ok, .rangeLength, .rangeMarker, .rangeHex, .rangePdu, .profileMismatch, .illegalCmd].map Status.code
    = [0, 1, 2, 3, 4, 5, 6] ∧
  ∀ (s : State) (w : CmdWord) (input : Bytes) (rest : List HostEvent),
    s.issue = .command w input :: rest → input.length ≤ s.params.maxInLen →
    ∃ t r, step s = .next t ∧ t.result = some r ∧
      r.status = expectedStatus s.profile s.params.asciiAcceptLowercase w input

/-- R81: a command that raises a non-zero status writes no state, and every other field of its Result has its default. -/
def Obligations.ErrorsWriteNoState : Prop :=
  ∀ (s t : State) (r : Result), step s = .next t → t.result = some r → r.status ≠ .ok →
    r = failed r.status ∧ t.crc = s.crc ∧ t.lrcSum = s.lrcSum ∧ t.profile = s.profile ∧ t.params = s.params

/-- R20: CHK_OK is set by six commands, and is then true exactly when RX_CHECK = CALC_CHECK; every other command, and every error
Result, has it false. No command reads it, nor any field of the Result before. -/
def Obligations.ChkOkIsTheComparison : Prop :=
  ∀ (i : Instr) (s : State), ∃ t r, exec i s = .next t ∧ t.result = some r ∧
    (∀ x : Option Result, exec i { s with result := x } = .next t) ∧
    r.chkOk = (comparesCheck i && decide (r.status = .ok) && decide (r.rxCheck = r.calcCheck))

/-- R11, R12: only CRC_INIT and CRC_FEED change CRC and only LRC_INIT and LRC_FEED change LRC_SUM; only CRC_READ's Result depends on
CRC and only LRC_READ's on LRC_SUM; no command changes the other's register. -/
def Obligations.OnlyStreamCommandsTouchRegisters : Prop :=
  ∀ (i : Instr) (s : State), ∃ t, exec i s = .next t ∧
    (t.crc ≠ s.crc → i = .crcInit ∨ ∃ b, i = .crcFeed b) ∧
    (t.lrcSum ≠ s.lrcSum → i = .lrcInit ∨ ∃ b, i = .lrcFeed b) ∧
    (∀ c : Half, i ≠ .crcRead → ∃ t', exec i { s with crc := c } = .next t' ∧ t'.result = t.result ∧ t'.lrcSum = t.lrcSum) ∧
    (∀ x : Byte, i ≠ .lrcRead → ∃ t', exec i { s with lrcSum := x } = .next t' ∧ t'.result = t.result ∧ t'.crc = t.crc)

/-- R30: repeating a command other than the two FEEDs gives the same Result and the same registers as making it once; so CRC_INIT
and LRC_INIT are idempotent. -/
def Obligations.RepeatingACommandChangesNothing : Prop :=
  ∀ (s : State) (w : CmdWord) (input : Bytes) (i : Instr) (rest : List HostEvent),
    s.issue = .command w input :: .command w input :: rest → input.length ≤ s.params.maxInLen → decode w = .ok i →
    (∀ b, i ≠ .crcFeed b) → (∀ b, i ≠ .lrcFeed b) →
    ∃ t, step s = .next t ∧ step t = .next { t with issue := rest }

/-- R24, R35: the six streaming commands ignore `IN`. -/
def Obligations.StreamCommandsIgnoreInput : Prop :=
  ∀ (i : Instr) (s t : State) (w : CmdWord) (x y : Bytes) (rest : List HostEvent),
    i ∈ [Instr.crcInit, .crcRead, .lrcInit, .lrcRead] ∨ (∃ b, i = .crcFeed b ∨ i = .lrcFeed b) →
    exec i { s with issue := .command w x :: rest } = .next t → exec i { s with issue := .command w y :: rest } = .next t

/-- R91: which counters a decoder's Result counts in. That STATUS 4, 5 and 6 count in none is the model's choice (log 17, DEDUCED):
R91's table has no row for them. -/
def Obligations.HostCountsFromResults : Prop :=
  ∀ r : Result,
    (BusCounter.busMessageCount ∈ countedEvents r ↔ r.status.code = 0 ∧ r.chkOk = true) ∧
    (BusCounter.busCommunicationErrorCount ∈ countedEvents r ↔
      (r.status.code = 0 ∧ r.chkOk = false) ∨ r.status.code ∈ [(1 : Byte), 2, 3]) ∧
    (BusCounter.slaveNoResponseCount ∈ countedEvents r ↔
      r.status.code = 0 ∧ r.chkOk = true ∧ r.addrClass.code = 1)
end

