-- ==== Sys2Proof/Laws/State.lean ====
section
/-! SUPPORT. Beside State: what each named update leaves in each field, one lemma per field per update. -/

namespace Sys2Proof.Machine

@[simp] theorem State.setCrc_crc (v : Half) (s : State) : (s.setCrc v).crc = v := rfl
@[simp] theorem State.setCrc_lrcSum (v : Half) (s : State) : (s.setCrc v).lrcSum = s.lrcSum := rfl
@[simp] theorem State.setCrc_profile (v : Half) (s : State) : (s.setCrc v).profile = s.profile := rfl
@[simp] theorem State.setCrc_params (v : Half) (s : State) : (s.setCrc v).params = s.params := rfl
@[simp] theorem State.setCrc_issue (v : Half) (s : State) : (s.setCrc v).issue = s.issue := rfl
@[simp] theorem State.setCrc_result (v : Half) (s : State) : (s.setCrc v).result = s.result := rfl

@[simp] theorem State.setLrcSum_crc (v : Byte) (s : State) : (s.setLrcSum v).crc = s.crc := rfl
@[simp] theorem State.setLrcSum_lrcSum (v : Byte) (s : State) : (s.setLrcSum v).lrcSum = v := rfl
@[simp] theorem State.setLrcSum_profile (v : Byte) (s : State) : (s.setLrcSum v).profile = s.profile := rfl
@[simp] theorem State.setLrcSum_params (v : Byte) (s : State) : (s.setLrcSum v).params = s.params := rfl
@[simp] theorem State.setLrcSum_issue (v : Byte) (s : State) : (s.setLrcSum v).issue = s.issue := rfl
@[simp] theorem State.setLrcSum_result (v : Byte) (s : State) : (s.setLrcSum v).result = s.result := rfl

@[simp] theorem State.returning_crc (r : Result) (s : State) : (s.returning r).crc = s.crc := rfl
@[simp] theorem State.returning_lrcSum (r : Result) (s : State) : (s.returning r).lrcSum = s.lrcSum := rfl
@[simp] theorem State.returning_profile (r : Result) (s : State) : (s.returning r).profile = s.profile := rfl
@[simp] theorem State.returning_params (r : Result) (s : State) : (s.returning r).params = s.params := rfl
@[simp] theorem State.returning_issue (r : Result) (s : State) : (s.returning r).issue = s.issue.tail := rfl
@[simp] theorem State.returning_result (r : Result) (s : State) : (s.returning r).result = some r := rfl

@[simp] theorem State.afterReset_crc (s : State) : (s.afterReset).crc = 0xFFFF#16 := rfl
@[simp] theorem State.afterReset_lrcSum (s : State) : (s.afterReset).lrcSum = 0x00#8 := rfl
@[simp] theorem State.afterReset_profile (s : State) : (s.afterReset).profile = s.profile := rfl
@[simp] theorem State.afterReset_params (s : State) : (s.afterReset).params = s.params := rfl
@[simp] theorem State.afterReset_issue (s : State) : (s.afterReset).issue = s.issue.tail := rfl
@[simp] theorem State.afterReset_result (s : State) : (s.afterReset).result = none := rfl

@[simp] theorem State.idle_crc (s : State) : (s.idle).crc = s.crc := rfl
@[simp] theorem State.idle_lrcSum (s : State) : (s.idle).lrcSum = s.lrcSum := rfl
@[simp] theorem State.idle_profile (s : State) : (s.idle).profile = s.profile := rfl
@[simp] theorem State.idle_params (s : State) : (s.idle).params = s.params := rfl
@[simp] theorem State.idle_issue (s : State) : (s.idle).issue = s.issue := rfl
@[simp] theorem State.idle_result (s : State) : (s.idle).result = none := rfl

/-- A register update does not touch `IN`. -/
@[simp] theorem State.setCrc_input (v : Half) (s : State) : (s.setCrc v).input = s.input := rfl
@[simp] theorem State.setLrcSum_input (v : Byte) (s : State) : (s.setLrcSum v).input = s.input := rfl

/-- `IN` is what the host passes with the command it issues now (R24). -/
theorem State.input_of_issue {s : State} {w : CmdWord} {input : Bytes} {rest : List HostEvent}
    (h : s.issue = .command w input :: rest) : s.input = input := by
  simp [State.input, h]

/-- `IN` depends on the host's events alone. -/
theorem State.input_congr {s t : State} (h : s.issue = t.issue) : s.input = t.input := by
  simp [State.input, h]

end Sys2Proof.Machine
end

