-- ==== Sys2Proof/Laws/Ops.lean ====
section
/-! SUPPORT. One lemma per shared operation: what it can do. -/

namespace Sys2Proof.Machine

theorem complete_eq (r : Result) (s : State) : complete r s = .next (s.returning r) := rfl

/-- Raising a status writes no register and leaves every other Result field at its default (R81). -/
theorem raise_eq (c : Status) (s : State) : raise c s = .next (s.returning (errorResult c)) := rfl

@[simp] theorem conclude_ok (r : Result) (s : State) : conclude (.ok r) s = .next (s.returning r) := rfl

@[simp] theorem conclude_error (c : Status) (s : State) :
    conclude (.error c) s = .next (s.returning (errorResult c)) := rfl

/-- A pure command always ends in a next state that differs from the state before it only in the host interface. -/
theorem conclude_answers (e : Except Status Result) (s : State) : ∃ r, conclude e s = .next (s.returning r) := by
  cases e with
  | ok r => exact ⟨r, rfl⟩
  | error c => exact ⟨errorResult c, rfl⟩

theorem gated_of_profile {p : Profile} {s : State} (h : s.profile = p) (e : Except Status Result) :
    gated p e s = conclude e s := by
  simp [gated, h]

theorem gated_of_other {p : Profile} {s : State} (h : s.profile ≠ p) (e : Except Status Result) :
    gated p e s = .next (s.returning (errorResult .profileMismatch)) := by
  simp [gated, h, raise_eq]

theorem gated_answers (p : Profile) (e : Except Status Result) (s : State) :
    ∃ r, gated p e s = .next (s.returning r) := by
  by_cases h : s.profile = p
  · rw [gated_of_profile h]
    exact conclude_answers e s
  · exact ⟨_, gated_of_other h e⟩

/-! Slices of `IN`. -/

@[simp] theorem slice_zero (s : Bytes) (n : Nat) : slice s 0 n = s.take n := by
  simp [slice]

/-- `byteAt` inside the sequence reads the byte there. -/
theorem byteAt_eq_getElem {s : Bytes} {i : Nat} (h : i < s.length) : byteAt s i = s[i] := by
  simp [byteAt, h]

theorem payloadOf_append {k : Nat} (payload tail : Bytes) (h : tail.length = k) :
    payloadOf k (payload ++ tail) = payload := by
  simp [payloadOf, ← h]

theorem trailingCrc_append (payload : Bytes) (b0 b1 : Byte) :
    trailingCrc (payload ++ [b0, b1]) = crcOfWire b0 b1 := by
  simp [trailingCrc, byteAt]

theorem trailingLrc_append (payload : Bytes) (l : Byte) : trailingLrc (payload ++ [l]) = l := by
  simp [trailingLrc, byteAt]

/-- The middle of a sequence between its first byte and its last `k` bytes. -/
theorem slice_middle (a : Byte) (mid tail : Bytes) :
    slice ([a] ++ mid ++ tail) 1 (([a] ++ mid ++ tail).length - tail.length) = mid := by
  have h : ([a] ++ mid ++ tail).length - tail.length = ([a] ++ mid).length := by
    simp only [List.length_append]
    omega
  rw [slice, h, List.take_left]
  rfl

/-- `PDU_MAX` is the 253 of R4. -/
theorem pduMax_eq : pduMax = 253 := rfl

/-- The bounds of a PDU (R45). -/
theorem pduLengthOk_iff (pdu : Bytes) : pduLengthOk pdu = true ↔ 1 ≤ pdu.length ∧ pdu.length ≤ 253 := by
  rw [pduLengthOk, decide_eq_true_iff]
  rfl

/-! Byte order (R27). -/

@[simp] theorem crcWire_length (c : Half) : (crcWire c).length = 2 := rfl

theorem crcOfWire_toNat (b0 b1 : Byte) : (crcOfWire b0 b1).toNat = b0.toNat + 256 * b1.toNat := by
  have h0 := b0.isLt
  have h1 := b1.isLt
  have e : b1.toNat <<< 8 % 2 ^ 16 = 2 ^ 8 * b1.toNat := by
    rw [Nat.shiftLeft_eq]; omega
  have hh : (crcOfWire b0 b1).toNat = b0.toNat ||| (2 ^ 8 * b1.toNat) := by
    simp only [crcOfWire, BitVec.toNat_or, BitVec.toNat_shiftLeft, BitVec.toNat_setWidth]
    rw [Nat.mod_eq_of_lt (by omega : b0.toNat < 2^16), Nat.mod_eq_of_lt (by omega : b1.toNat < 2^16), e]
  rw [hh, Nat.or_comm, ← Nat.two_pow_add_eq_or_of_lt (by simpa using h0)]
  omega

theorem lowByte_toNat (c : Half) : (lowByte c).toNat = c.toNat % 256 := by
  simp [lowByte]

theorem highByte_toNat (c : Half) : (highByte c).toNat = c.toNat / 256 := by
  have := c.isLt
  simp [highByte, Nat.shiftRight_eq_div_pow]
  omega

theorem lowByte_crcOfWire (b0 b1 : Byte) : lowByte (crcOfWire b0 b1) = b0 := by
  apply BitVec.eq_of_toNat_eq
  have := b0.isLt
  rw [lowByte_toNat, crcOfWire_toNat]; omega

theorem highByte_crcOfWire (b0 b1 : Byte) : highByte (crcOfWire b0 b1) = b1 := by
  apply BitVec.eq_of_toNat_eq
  have := b0.isLt
  rw [highByte_toNat, crcOfWire_toNat]; omega

theorem crcOfWire_bytes (c : Half) : crcOfWire (lowByte c) (highByte c) = c := by
  apply BitVec.eq_of_toNat_eq
  rw [crcOfWire_toNat, lowByte_toNat, highByte_toNat]; omega

end Sys2Proof.Machine
end

