-- ==== Sys2Proof/Laws/Checksum.lean ====
section
/-! SUPPORT. The checksum functions over concatenation, and the LRC on integers (R52, R53). -/

namespace Sys2Proof.Machine

theorem crc16_append (s t : Bytes) : crc16 (s ++ t) = t.foldl crcByte (crc16 s) := by
  simp [crc16, List.foldl_append]

theorem byteSum_append (s t : Bytes) : byteSum (s ++ t) = byteSum s + byteSum t := by
  simp [byteSum]

@[simp] theorem byteSum_nil : byteSum [] = 0 := rfl

@[simp] theorem byteSum_cons (b : Byte) (s : Bytes) : byteSum (b :: s) = b.toNat + byteSum s := rfl

theorem lrcOfSum_toNat (x : Byte) : (lrcOfSum x).toNat = (256 - x.toNat) % 256 := by
  simp [lrcOfSum]

theorem lrc8_toNat (s : Bytes) : (lrc8 s).toNat = (256 - byteSum s % 256) % 256 := by
  simp [lrc8, lrcOfSum]

theorem lrcAdd_eq (x b : Byte) : lrcAdd x b = x + b := by
  apply BitVec.eq_of_toNat_eq
  simp [lrcAdd]

end Sys2Proof.Machine
end

