-- ==== Sys2Proof/Laws/Decode.lean ====
section
/-! SUPPORT. The two fields of a command word (R33): each is read back as it was written, and the word is its two fields. -/

namespace Sys2Proof

theorem opField_toNat (w : CmdWord) : (opField w).toNat = w.toNat / 256 := by
  have := w.isLt
  simp [opField, Nat.shiftRight_eq_div_pow]
  omega

theorem immField_toNat (w : CmdWord) : (immField w).toNat = w.toNat % 256 := by
  simp [immField]

theorem cmdWord_toNat (op imm : Byte) : (cmdWord op imm).toNat = 256 * op.toNat + imm.toNat := by
  have h0 := imm.isLt
  have h1 := op.isLt
  have e : op.toNat <<< 8 % 2 ^ 16 = 2 ^ 8 * op.toNat := by
    rw [Nat.shiftLeft_eq]; omega
  simp only [cmdWord, BitVec.toNat_or, BitVec.toNat_shiftLeft, BitVec.toNat_setWidth]
  rw [Nat.mod_eq_of_lt (by omega : imm.toNat < 2^16), Nat.mod_eq_of_lt (by omega : op.toNat < 2^16), e,
    ← Nat.two_pow_add_eq_or_of_lt (by simpa using h0)]

theorem opField_cmdWord (op imm : Byte) : opField (cmdWord op imm) = op := by
  apply BitVec.eq_of_toNat_eq
  have := imm.isLt
  rw [opField_toNat, cmdWord_toNat]; omega

theorem immField_cmdWord (op imm : Byte) : immField (cmdWord op imm) = imm := by
  apply BitVec.eq_of_toNat_eq
  have := imm.isLt
  rw [immField_toNat, cmdWord_toNat]; omega

theorem cmdWord_fields (w : CmdWord) : cmdWord (opField w) (immField w) = w := by
  apply BitVec.eq_of_toNat_eq
  rw [cmdWord_toNat, opField_toNat, immField_toNat]; omega

/-- A command without an operand decodes exactly when `IMM8` is 0x00 (R37). -/
theorem withoutOperand_eq_ok {op imm : Byte} {i j : Instr} :
    withoutOperand op imm i = .ok j ↔ imm = 0x00#8 ∧ i = j := by
  by_cases h : imm = 0x00#8 <;> simp [withoutOperand, h]

end Sys2Proof
end

