-- ==== Sys2Proof/Laws/Hex.lean ====
section
/-! SUPPORT. Hex encoding and decoding: lengths, concatenation, and that decoding undoes encoding whichever case is accepted
(R43, R44). -/

namespace Sys2Proof.Machine

theorem hexVal_hexDig (lower : Bool) : ∀ n : BitVec 4, hexVal lower (hexDig n) = some n.toNat := by
  cases lower <;> decide +kernel

theorem hexEnc_length (s : Bytes) : (hexEnc s).length = 2 * s.length := by
  induction s with
  | nil => rfl
  | cons b s ih => simp [hexEnc, hexEncByte, ih]; omega

theorem hexEnc_append (s t : Bytes) : hexEnc (s ++ t) = hexEnc s ++ hexEnc t := by
  induction s with
  | nil => rfl
  | cons b s ih => simp [hexEnc, ih]

/-- A byte is its two nibbles (R28). -/
theorem byte_of_nibbles (b : Byte) : BitVec.ofNat 8 ((b.extractLsb' 4 4).toNat * 16 + (b.extractLsb' 0 4).toNat) = b := by
  apply BitVec.eq_of_toNat_eq
  have := b.isLt
  simp [Nat.shiftRight_eq_div_pow]
  omega

theorem hexDec_hexEnc (lower : Bool) (s : Bytes) : hexDec lower (hexEnc s) = some s := by
  induction s with
  | nil => rfl
  | cons b s ih => simp [hexEnc, hexEncByte, hexDec, hexVal_hexDig, ih, -BitVec.extractLsb'_toNat, byte_of_nibbles]

end Sys2Proof.Machine
end

