-- ==== Sys2Proof/Laws/Frames.lean ====
section
/-! SUPPORT. What the two splits make of a frame written as its parts: one lemma per split and case (R69, R71). Every frame long
enough is such a concatenation (`exists_parts`). -/

namespace Sys2Proof.Machine

theorem rtuSplit_short {frame : Bytes} (h : frame.length < 4) : rtuSplit frame = .error .rangeLength := by
  simp [rtuSplit, rtuMinFrame, h]

theorem rtuSplit_of_parts (a : Byte) {pdu : Bytes} (h : pdu ≠ []) (b0 b1 : Byte) :
    rtuSplit ([a] ++ pdu ++ [b0, b1])
      = .ok (decodedResult a pdu (crcOfWire b0 b1) (crc16 ([a] ++ pdu))) := by
  have hl : ¬ ([a] ++ pdu ++ [b0, b1]).length < rtuMinFrame := by
    have := List.length_pos_iff.mpr h
    simp [rtuMinFrame]
    omega
  rw [rtuSplit, if_neg hl, trailingCrc_append, payloadOf_append (k := 2) ([a] ++ pdu) [b0, b1] rfl]
  congr 2
  exact slice_middle a pdu [b0, b1]

theorem asciiSplit_short {frame : Bytes} (h : frame.length < 11) (lower : Bool) :
    asciiSplit lower frame = .error .rangeLength := by
  simp [asciiSplit, asciiMinFrame, h]

theorem asciiSplit_unmarked {frame : Bytes} (h : 11 ≤ frame.length) (hm : asciiMarkersOk frame = false) (lower : Bool) :
    asciiSplit lower frame = .error .rangeMarker := by
  simp [asciiSplit, asciiMinFrame, hm, Nat.not_lt.mpr h]

theorem asciiSplit_of_text (lower : Bool) {text : Bytes} (h : 8 ≤ text.length) :
    asciiSplit lower ([charColon] ++ text ++ [charCR, charLF])
      = if text.length % 2 ≠ 0 then .error .rangeHex
        else match hexDec lower text with
          | none => .error .rangeHex
          | some r => .ok (asciiFields r) := by
  have hl : ¬ ([charColon] ++ text ++ [charCR, charLF]).length < asciiMinFrame := by
    simp [asciiMinFrame]
    omega
  have hm : asciiMarkersOk ([charColon] ++ text ++ [charCR, charLF]) = true := by
    simp [asciiMarkersOk, byteAt]
  have ht : slice ([charColon] ++ text ++ [charCR, charLF]) 1
      (([charColon] ++ text ++ [charCR, charLF]).length - 2) = text :=
    slice_middle charColon text [charCR, charLF]
  simp only [asciiSplit, if_neg hl, if_neg (not_not.mpr hm), ht]
  all_goals rfl

theorem asciiFields_of_parts (a : Byte) (pdu : Bytes) (l : Byte) :
    asciiFields ([a] ++ pdu ++ [l])
      = decodedResult a pdu (l.setWidth 16) ((lrc8 ([a] ++ pdu)).setWidth 16) := by
  rw [asciiFields, trailingLrc_append, payloadOf_append (k := 1) ([a] ++ pdu) [l] rfl]
  congr 1
  exact slice_middle a pdu [l]

/-- A sequence longer than its tail is a first byte, a middle and that tail. -/
theorem exists_parts {s : Bytes} {k : Nat} (h : k + 1 ≤ s.length) :
    ∃ a mid tail, s = [a] ++ mid ++ tail ∧ tail.length = k := by
  cases s with
  | nil => simp at h
  | cons a t =>
    refine ⟨a, t.take (t.length - k), t.drop (t.length - k), ?_, ?_⟩
    · simp
    · simp at h ⊢
      omega

end Sys2Proof.Machine
end

