-- ==== Sys2Proof/Laws/PerInstr.lean ====
section
/-! SUPPORT. Families stated per command. `EncodedFields`: the two fields of a command's word are its opcode and its operand, so no
bit of either is dropped (R33, R34, R35). -/

namespace Sys2Proof.Laws

def EncodedFields.Statement (i : Instr) : Prop :=
  opField (encode i) = i.opcode ∧ immField (encode i) = i.operand

theorem EncodedFields.any (i : Instr) : EncodedFields.Statement i :=
  ⟨opField_cmdWord _ _, immField_cmdWord _ _⟩

theorem EncodedFields.crcInit : EncodedFields.Statement .crcInit := EncodedFields.any _
theorem EncodedFields.crcFeed (b : Byte) : EncodedFields.Statement (.crcFeed b) := EncodedFields.any _
theorem EncodedFields.crcRead : EncodedFields.Statement .crcRead := EncodedFields.any _
theorem EncodedFields.crcCompute : EncodedFields.Statement .crcCompute := EncodedFields.any _
theorem EncodedFields.crcValidate : EncodedFields.Statement .crcValidate := EncodedFields.any _
theorem EncodedFields.lrcInit : EncodedFields.Statement .lrcInit := EncodedFields.any _
theorem EncodedFields.lrcFeed (b : Byte) : EncodedFields.Statement (.lrcFeed b) := EncodedFields.any _
theorem EncodedFields.lrcRead : EncodedFields.Statement .lrcRead := EncodedFields.any _
theorem EncodedFields.lrcCompute : EncodedFields.Statement .lrcCompute := EncodedFields.any _
theorem EncodedFields.lrcValidate : EncodedFields.Statement .lrcValidate := EncodedFields.any _
theorem EncodedFields.encodeRtu (a : Byte) : EncodedFields.Statement (.encodeRtu a) := EncodedFields.any _
theorem EncodedFields.decodeRtu : EncodedFields.Statement .decodeRtu := EncodedFields.any _
theorem EncodedFields.encodeAscii (a : Byte) : EncodedFields.Statement (.encodeAscii a) := EncodedFields.any _
theorem EncodedFields.decodeAscii : EncodedFields.Statement .decodeAscii := EncodedFields.any _
theorem EncodedFields.rtuToAscii : EncodedFields.Statement .rtuToAscii := EncodedFields.any _
theorem EncodedFields.asciiToRtu : EncodedFields.Statement .asciiToRtu := EncodedFields.any _

end Sys2Proof.Laws
end

