-- ==== Sys2Proof/Laws/Step.lean ====
section
/-! SUPPORT. What a command and a step can do, said once. -/

namespace Sys2Proof.Machine

/-- A command other than the two INITs and the two FEEDs: it writes no register (R11, R12). -/
def writesNoRegister : Instr → Bool
  | .crcInit | .crcFeed _ | .lrcInit | .lrcFeed _ => false
  | .crcRead | .crcCompute | .crcValidate | .lrcRead | .lrcCompute | .lrcValidate
  | .encodeRtu _ | .decodeRtu | .encodeAscii _ | .decodeAscii | .rtuToAscii | .asciiToRtu => true

/-- Every command that writes no register ends in a next state that differs only in the host interface. -/
theorem exec_of_writesNoRegister {i : Instr} (h : writesNoRegister i = true) (s : State) :
    ∃ r, exec i s = .next (s.returning r) := by
  cases i with
  | crcInit | crcFeed _ | lrcInit | lrcFeed _ => simp [writesNoRegister] at h
  | crcRead | crcCompute | lrcRead | lrcCompute => exact ⟨_, rfl⟩
  | crcValidate | lrcValidate | rtuToAscii | asciiToRtu => exact conclude_answers _ s
  | encodeRtu _ | decodeRtu | encodeAscii _ | decodeAscii => exact gated_answers _ _ s

/-- Everything a command can do: it answers a next state with the values of the two registers, its Result, and one event of the
host done. -/
theorem exec_shape (i : Instr) (s : State) :
    ∃ c u r, exec i s = .next (((s.setCrc c).setLrcSum u).returning r) := by
  by_cases h : writesNoRegister i = true
  · obtain ⟨r, hr⟩ := exec_of_writesNoRegister h s
    exact ⟨s.crc, s.lrcSum, r, hr⟩
  · cases i with
    | crcInit => exact ⟨crcInitValue, s.lrcSum, {}, rfl⟩
    | crcFeed b => exact ⟨crcByte s.crc b, s.lrcSum, {}, rfl⟩
    | lrcInit => exact ⟨s.crc, 0x00#8, {}, rfl⟩
    | lrcFeed b => exact ⟨s.crc, lrcAdd s.lrcSum b, {}, rfl⟩
    | crcRead | crcCompute | crcValidate | lrcRead | lrcCompute | lrcValidate | encodeRtu _ | decodeRtu | encodeAscii _
    | decodeAscii | rtuToAscii | asciiToRtu => exact absurd rfl h

/-! One lemma per case of a step. -/

theorem step_of_nothing {s : State} (h : s.issue = []) : step s = .next s.idle := by
  simp [step, h]

theorem step_of_reset {s : State} {rest : List HostEvent} (h : s.issue = .reset :: rest) :
    step s = .next s.afterReset := by
  simp [step, h]

theorem step_of_overlong {s : State} {w : CmdWord} {input : Bytes} {rest : List HostEvent}
    (h : s.issue = .command w input :: rest) (hl : s.params.maxInLen < input.length) :
    step s = .refused .inputOverCapacity := by
  simp [step, h, presentable, Nat.not_le.mpr hl]

theorem step_of_legal {s : State} {w : CmdWord} {input : Bytes} {rest : List HostEvent} {i : Instr}
    (h : s.issue = .command w input :: rest) (hl : input.length ≤ s.params.maxInLen) (hd : decode w = .ok i) :
    step s = exec i s := by
  simp [step, h, presentable, hl, hd]

theorem step_of_illegal {s : State} {w : CmdWord} {input : Bytes} {rest : List HostEvent} {e : DecodeError}
    (h : s.issue = .command w input :: rest) (hl : input.length ≤ s.params.maxInLen) (hd : decode w = .error e) :
    step s = .next (s.returning (errorResult .illegalCmd)) := by
  simp [step, h, presentable, hl, hd, raise_eq]

/-- Everything a step that answers a next state can have done. -/
theorem step_next_cases {s t : State} (h : step s = .next t) :
    (s.issue = [] ∧ t = s.idle) ∨
    (∃ rest, s.issue = .reset :: rest ∧ t = s.afterReset) ∨
    (∃ w input rest, s.issue = .command w input :: rest ∧ input.length ≤ s.params.maxInLen ∧
      ((∃ i, decode w = .ok i ∧ exec i s = .next t) ∨
       (∃ e, decode w = .error e ∧ t = s.returning (errorResult .illegalCmd)))) := by
  cases hi : s.issue with
  | nil =>
    rw [step_of_nothing hi] at h
    exact .inl ⟨rfl, (Host.Outcome.next.inj h).symm⟩
  | cons e rest =>
    cases e with
    | reset =>
      rw [step_of_reset hi] at h
      exact .inr (.inl ⟨rest, rfl, (Host.Outcome.next.inj h).symm⟩)
    | command w input =>
      by_cases hl : input.length ≤ s.params.maxInLen
      · refine .inr (.inr ⟨w, input, rest, rfl, hl, ?_⟩)
        cases hd : decode w with
        | ok i =>
          rw [step_of_legal hi hl hd] at h
          exact .inl ⟨i, rfl, h⟩
        | error e =>
          rw [step_of_illegal hi hl hd] at h
          exact .inr ⟨e, rfl, (Host.Outcome.next.inj h).symm⟩
      · rw [step_of_overlong hi (Nat.not_le.mp hl)] at h
        cases h

/-! Runs. -/

theorem runSteps_zero (s : State) : runSteps 0 s = .next s := rfl

theorem runSteps_succ {s t : State} (h : step s = .next t) (k : Nat) : runSteps (k + 1) s = runSteps k t := by
  simp only [runSteps, h]

theorem runSteps_one (s : State) : runSteps 1 s = step s := by
  cases h : step s with
  | next t => rw [runSteps_succ h, runSteps_zero]
  | fault e => simp only [runSteps, h]
  | refused r => simp only [runSteps, h]

theorem runSteps_add {s t : State} {k : Nat} (h : runSteps k s = .next t) (n : Nat) :
    runSteps (k + n) s = runSteps n t := by
  induction k generalizing s with
  | zero => cases h; rw [Nat.zero_add]
  | succ k ih =>
    cases hs : step s with
    | next u =>
      rw [runSteps_succ hs] at h
      rw [Nat.succ_add, runSteps_succ hs, ih h]
    | fault e => simp only [runSteps, hs] at h; cases h
    | refused r => simp only [runSteps, hs] at h; cases h

/-- `runSteps` is the host's own run of the machine. -/
theorem runSteps_eq_run (k : Nat) (s : State) : runSteps k s = Host.Core.run Sys2Proof.core k s := by
  induction k generalizing s with
  | zero => rfl
  | succ k ih =>
    cases h : step s with
    | next t =>
      have hc : Sys2Proof.core.step s = .next t := h
      rw [runSteps_succ h, ih t]
      simp only [Host.Core.run, hc]
      rfl
    | fault e =>
      have hc : Sys2Proof.core.step s = .fault e := h
      simp only [runSteps, Host.Core.run, h, hc]
      rfl
    | refused r =>
      have hc : Sys2Proof.core.step s = .refused r := h
      simp only [runSteps, Host.Core.run, h, hc]
      rfl

end Sys2Proof.Machine
end

