-- ==== Sys2Proof/Tests/Slice0.lean ====
section
/-! SUPPORT. The model's own tests. Every expected value comes from spec/: the vectors of 95_test_vectors.md (their id is in the
comment), the encodings of 30_encoding.md, or a count done by hand. After them, for each statement with hypotheses, a theorem that
shows values meeting them together, at the ends of their ranges. -/

namespace Sys2Proof.Tests

open Sys2Proof Sys2Proof.Machine Sys2Proof.Claims

-- One theorem at a time: proofs evaluated by the kernel wait for each other, and each waiting proof holds a thread.
set_option Elab.async false

/-- One instance that is about to execute one command. -/
def one (profile : Profile) (crc : Half) (lrcSum : Byte) (word : CmdWord) (input : Bytes) (lower : Bool := false) : State :=
  { crc := crc, lrcSum := lrcSum, profile := profile, params := { asciiAcceptLowercase := lower, maxInLen := 513 },
    issue := [.command word input], result := none }

/-- `CRC`, `LRC_SUM` and the Result after a step that answers a next state. -/
def after (o : Host.Outcome State Fault Refusal) : Option (Half × Byte × Option Result) :=
  match o with
  | .next s => some (s.crc, s.lrcSum, s.result)
  | .fault _ => none
  | .refused _ => none

/-! What is ill formed is refused. -/

theorem test_capacity_below_513_is_ill_formed : Params.wf { maxInLen := 512 } = false := by decide
theorem test_capacity_513_is_well_formed : Params.wf { maxInLen := 513 } = true := by decide
theorem test_overlong_input_is_ill_formed :
    HostEvent.wf { maxInLen := 513 } (.command 0x0400 (List.replicate 514 0)) = false := by decide +kernel
theorem test_longest_input_is_well_formed :
    HostEvent.wf { maxInLen := 513 } (.command 0x0400 (List.replicate 513 0)) = true := by decide +kernel

/-! Decoding, every constructor, each word written bit by bit from the `encoding` column of opcode_table.json. -/

theorem test_decode_crc_words :
    decode 0b0000000100000000 = .ok .crcInit ∧ decode 0b0000001001010101 = .ok (.crcFeed 0x55) ∧
    decode 0b0000001100000000 = .ok .crcRead ∧ decode 0b0000010000000000 = .ok .crcCompute ∧
    decode 0b0000010100000000 = .ok .crcValidate := by decide

theorem test_decode_lrc_words :
    decode 0b0000100000000000 = .ok .lrcInit ∧ decode 0b0000100110000001 = .ok (.lrcFeed 0x81) ∧
    decode 0b0000101000000000 = .ok .lrcRead ∧ decode 0b0000101100000000 = .ok .lrcCompute ∧
    decode 0b0000110000000000 = .ok .lrcValidate := by decide

theorem test_decode_codec_words :
    decode 0b0001000000001010 = .ok (.encodeRtu 0x0A) ∧ decode 0b0001000100000000 = .ok .decodeRtu ∧
    decode 0b0001001011111000 = .ok (.encodeAscii 0xF8) ∧ decode 0b0001001100000000 = .ok .decodeAscii ∧
    decode 0b0001010000000000 = .ok .rtuToAscii ∧ decode 0b0001010100000000 = .ok .asciiToRtu := by decide

/-- V7.1 to V7.9. -/
theorem test_decode_refuses_by_name :
    decode 0x0000 = .error (.reservedOp 0x00) ∧ decode 0x0600 = .error (.reservedOp 0x06) ∧
    decode 0x0700 = .error (.reservedOp 0x07) ∧ decode 0x0D00 = .error (.reservedOp 0x0D) ∧
    decode 0x1600 = .error (.reservedOp 0x16) ∧ decode 0xFFFF = .error (.reservedOp 0xFF) ∧
    decode 0x0301 = .error (.reservedImm 0x03 0x01) ∧ decode 0x0BFF = .error (.reservedImm 0x0B 0xFF) ∧
    decode 0x15FF = .error (.reservedImm 0x15 0xFF) := by decide

theorem test_decodeTableWord :
    decodeTableWord 16 0x12F8 = some (.encodeAscii 0xF8) ∧ decodeTableWord 16 0x0301 = none ∧
    decodeTableWord 17 0x0100 = none := by decide

/-- No two rows of the opcode table share a word. -/
theorem test_opcode_rows_do_not_overlap :
    opcodeTable.Pairwise (fun r q => r.pattern &&& q.mask ≠ q.pattern &&& r.mask) := by decide +kernel

/-- The examples of R49, and what is no line of the syntax. -/
theorem test_assembler_examples :
    assembleLine "CRC_FEED 0x0A".toList = some [.command 0x020A []] ∧
    assembleLine "DECODE_ASCII IN=\":0A83\\r\\n\"".toList
      = some [.command 0x1300 [0x3A, 0x30, 0x41, 0x38, 0x33, 0x0D, 0x0A]] ∧
    assembleLine "CRC_READ 1".toList = none ∧ assembleLine "CRC_FEED 256".toList = none := by decide +kernel

/-! One step, values of 95_test_vectors.md. -/

/-- V1.1. -/
theorem test_crc_shift : crcShift 0x0001 = 0xA001 ∧ crcShift 0x0002 = 0x0001 ∧ crcShift 0xFFFF = 0xDFFE := by decide
/-- V1.5: the payload of W3, and the catalogue's "123456789". -/
theorem test_crc16 : crc16 [0x0A, 0x03, 0x00, 0x00, 0x00, 0x02] = 0x70C5 ∧
    crc16 [0x31, 0x32, 0x33, 0x34, 0x35, 0x36, 0x37, 0x38, 0x39] = 0x4B37 := by decide +kernel
/-- V3.1. -/
theorem test_lrc8 : lrc8 [0x0A, 0x03, 0x00, 0x00, 0x00, 0x02] = 0xF1 ∧ lrc8 [0xFF, 0x01] = 0x00 ∧ lrc8 [0x80] = 0x80 := by
  decide +kernel

/-- V2.1, V2.2. -/
theorem test_crc_init : after (step (one .rtu 0x1234 0x7E 0x0100 [])) = some (0xFFFF, 0x7E, some {}) := by decide +kernel
theorem test_crc_init_operand : after (step (one .rtu 0x1234 0x7E 0x0105 []))
    = some (0x1234, 0x7E, some { status := .illegalCmd }) := by decide +kernel
/-- V2.3. -/
theorem test_crc_feed : after (step (one .ascii 0xFFFF 0x7E 0x020A [])) = some (0x473F, 0x7E, some {}) := by decide +kernel
/-- V2.6. -/
theorem test_crc_read : after (step (one .rtu 0x70C5 0x7E 0x0300 []))
    = some (0x70C5, 0x7E, some { value := 0x70C5, out := [0xC5, 0x70] }) := by decide +kernel
/-- V2.9. -/
theorem test_crc_compute_empty : after (step (one .rtu 0x1234 0x7E 0x0400 []))
    = some (0x1234, 0x7E, some { value := 0xFFFF, out := [0xFF, 0xFF] }) := by decide +kernel
/-- V2.12, V2.15. -/
theorem test_crc_validate_swapped : after (step (one .rtu 0x1234 0x7E 0x0500 [0x0A, 0x03, 0x00, 0x00, 0x00, 0x02, 0x70, 0xC5]))
    = some (0x1234, 0x7E, some { rxCheck := 0xC570, calcCheck := 0x70C5 }) := by decide +kernel
theorem test_crc_validate_short : after (step (one .rtu 0x1234 0x7E 0x0500 [0x0A]))
    = some (0x1234, 0x7E, some { status := .rangeLength }) := by decide +kernel
/-- V3.2a. -/
theorem test_lrc_init : after (step (one .rtu 0x1234 0x7E 0x0800 [])) = some (0x1234, 0x00, some {}) := by decide +kernel
/-- V3.2d. -/
theorem test_lrc_feed_wraps : after (step (one .rtu 0x1234 0xFF 0x0901 [])) = some (0x1234, 0x00, some {}) := by decide +kernel
/-- V3.2f. -/
theorem test_lrc_read : after (step (one .rtu 0x1234 0x0F 0x0A00 []))
    = some (0x1234, 0x0F, some { value := 0x00F1, out := [0xF1] }) := by decide +kernel
/-- V3.2i. -/
theorem test_lrc_compute : after (step (one .rtu 0x1234 0x7E 0x0B00 [0x0A, 0x03, 0x00, 0x00, 0x00, 0x02]))
    = some (0x1234, 0x7E, some { value := 0x00F1, out := [0xF1] }) := by decide +kernel
/-- V3.2l. -/
theorem test_lrc_validate_mismatch : after (step (one .rtu 0x1234 0x7E 0x0C00 [0x0A, 0x03, 0x00, 0x00, 0x00, 0x02, 0xF0]))
    = some (0x1234, 0x7E, some { rxCheck := 0x00F0, calcCheck := 0x00F1 }) := by decide +kernel
/-- V4.1, V4.24. -/
theorem test_encode_rtu : after (step (one .rtu 0x1234 0x7E 0x100A [0x03, 0x00, 0x00, 0x00, 0x02]))
    = some (0x1234, 0x7E, some { value := 0x70C5, out := [0x0A, 0x03, 0x00, 0x00, 0x00, 0x02, 0xC5, 0x70] }) := by decide +kernel
theorem test_encode_rtu_on_ascii : after (step (one .ascii 0x1234 0x7E 0x100A []))
    = some (0x1234, 0x7E, some { status := .profileMismatch }) := by decide +kernel
/-- V4.11, V4.13. -/
theorem test_decode_rtu_minimum : after (step (one .rtu 0x1234 0x7E 0x1100 [0xFF, 0x03, 0x00, 0x41]))
    = some (0x1234, 0x7E, some
      { chkOk := true, rxCheck := 0x4100, calcCheck := 0x4100, addr := 0xFF, addrClass := .reserved,
        out := [0x03] }) := by decide +kernel
theorem test_decode_rtu_mismatch : after (step (one .rtu 0x1234 0x7E 0x1100 [0x01, 0x07, 0xE2, 0x41]))
    = some (0x1234, 0x7E, some
      { rxCheck := 0x41E2, calcCheck := 0xE241, addr := 0x01, addrClass := .unicast,
        out := [0x07] }) := by decide +kernel
/-- V5.6. -/
theorem test_encode_ascii : after (step (one .ascii 0x1234 0x7E 0x120A [0x83, 0x02]))
    = some (0x1234, 0x7E, some
      { value := 0x0071,
        out := [0x3A, 0x30, 0x41, 0x38, 0x33, 0x30, 0x32, 0x37, 0x31, 0x0D, 0x0A] }) := by decide +kernel
/-- V5.21 and V5.22: lowercase digits are refused, and accepted where the instance accepts them. -/
theorem test_decode_ascii_lowercase_refused : after (step (one .ascii 0x1234 0x7E 0x1300
      [0x3A, 0x30, 0x61, 0x30, 0x33, 0x30, 0x30, 0x30, 0x30, 0x30, 0x30, 0x30, 0x32, 0x66, 0x31, 0x0D, 0x0A]))
    = some (0x1234, 0x7E, some { status := .rangeHex }) := by decide +kernel
theorem test_decode_ascii_lowercase_accepted : after (step (one .ascii 0x1234 0x7E 0x1300
      [0x3A, 0x30, 0x61, 0x30, 0x33, 0x30, 0x30, 0x30, 0x30, 0x30, 0x30, 0x30, 0x32, 0x66, 0x31, 0x0D, 0x0A] (lower := true)))
    = some (0x1234, 0x7E, some
      { chkOk := true, rxCheck := 0x00F1, calcCheck := 0x00F1, addr := 0x0A, addrClass := .unicast,
        out := [0x03, 0x00, 0x00, 0x00, 0x02] }) := by decide +kernel
/-- V6.5: a truncated frame. -/
theorem test_rtu_to_ascii_truncated : after (step (one .ascii 0x1234 0x7E 0x1400 [0x0A, 0x03, 0x00, 0x00, 0x00, 0x02, 0xC5]))
    = some (0x1234, 0x7E, some
      { rxCheck := 0xC502, calcCheck := 0x45BC, addr := 0x0A, addrClass := .unicast, value := 0x00F3,
        out := [0x3A, 0x30, 0x41, 0x30, 0x33, 0x30, 0x30, 0x30, 0x30, 0x30, 0x30, 0x46, 0x33, 0x0D, 0x0A] }) := by decide +kernel
/-- V6.10, V6.11. -/
theorem test_ascii_to_rtu : after (step (one .rtu 0x1234 0x7E 0x1500
      [0x3A, 0x30, 0x41, 0x38, 0x33, 0x30, 0x32, 0x37, 0x31, 0x0D, 0x0A]))
    = some (0x1234, 0x7E, some
      { chkOk := true, rxCheck := 0x0071, calcCheck := 0x0071, addr := 0x0A, addrClass := .unicast,
        value := 0x33B1, out := [0x0A, 0x83, 0x02, 0xB1, 0x33] }) := by decide +kernel
theorem test_ascii_to_rtu_short : after (step (one .rtu 0x1234 0x7E 0x1500
      [0x3A, 0x30, 0x31, 0x30, 0x37, 0x46, 0x38, 0x0D, 0x0A]))
    = some (0x1234, 0x7E, some { status := .rangeLength }) := by decide +kernel
/-- V5.29 and V5.30: the profile before the length, IMM8 before the profile. -/
theorem test_profile_before_length : after (step (one .rtu 0x1234 0x7E 0x1300 [0x3A, 0x30, 0x31]))
    = some (0x1234, 0x7E, some { status := .profileMismatch }) := by decide +kernel
theorem test_operand_before_profile : after (step (one .rtu 0x1234 0x7E 0x1301 []))
    = some (0x1234, 0x7E, some { status := .illegalCmd }) := by decide +kernel
/-- P5, line 4. -/
theorem test_reset_event : after (step { one .ascii 0x1234 0x0D 0 [] with issue := [.reset] })
    = some (0xFFFF, 0x00, none) := by decide +kernel
/-- R22: no Result to read after reset. -/
theorem test_no_result_after_reset : readResult State.reset = .error .noResult := by rfl
/-- The word a test places after reset is the one the first step runs. -/
theorem test_first_step_runs_placed_word : after (step (State.reset.withFetchWord 16 0x0255))
    = some (0x7F7F, 0x00, some {}) := by decide +kernel

/-! Witnesses: values that meet the hypotheses of a statement, all together. -/

theorem witness_ResetSetsBothRegisters :
    ({ State.reset with issue := [.reset, .command 0x0300 []] } : State).issue = .reset :: [.command 0x0300 []] := rfl

theorem witness_PowerOnMeetsInvariant : 513 ≤ ({ maxInLen := 513 } : Params).maxInLen := by decide

theorem witness_EveryStepKeepsInvariant :
    (one .rtu 0xFFFF 0 0x0300 []).inv = true ∧
    step (one .rtu 0xFFFF 0 0x0300 []) = .next ((one .rtu 0xFFFF 0 0x0300 []).returning (crcResult 0xFFFF)) := ⟨by decide, by rfl⟩

theorem witness_StepRunsTheIssuedCommand :
    (one .rtu 0 0 0x0400 (List.replicate 513 0)).issue = .command 0x0400 (List.replicate 513 0) :: [] ∧
    (List.replicate 513 (0 : Byte)).length ≤ (one .rtu 0 0 0x0400 (List.replicate 513 0)).params.maxInLen ∧
    decode 0x0400 = .ok .crcCompute := ⟨rfl, by decide +kernel, by decide⟩

/-- Both sides of the capacity: 514 bytes have no step, 513 have one. -/
theorem witness_OnlyOverlongInputHasNoStep :
    step (one .rtu 0 0 0x0000 (List.replicate 514 0)) = .refused .inputOverCapacity ∧
    after (step (one .rtu 0 0 0x0000 (List.replicate 513 0))) = some (0, 0, some { status := .illegalCmd }) :=
  ⟨step_of_overlong rfl (by decide +kernel), by decide +kernel⟩

theorem witness_BlockNeverStartsAnAction : State.reset.issue = [] := rfl

theorem witness_NoStepChangesConfiguration : step State.reset = .next State.reset.idle := rfl

theorem witness_TcpAndSmallCapacityAreRefused :
    513 ≤ ({ maxInLen := 513 } : Params).maxInLen ∧ ({ maxInLen := 512 } : Params).maxInLen < 513 := by decide

theorem witness_RunsNeverStop : (one .rtu 0 0 0x0400 (List.replicate 513 0)).hostOk = true := by decide +kernel

theorem witness_LaterEventsAreNotSeen :
    (one .rtu 0 0 0x0800 []).issue = .command 0x0800 [] :: [] ∧
    step (one .rtu 0 0 0x0800 []) = .next ((State.setLrcSum 0 (one .rtu 0 0 0x0800 [])).returning {}) := ⟨rfl, by rfl⟩

theorem witness_InstancesAreIndependent :
    (0 : Nat) ≠ 1 ∧ stepAt 0 [State.reset, State.reset] = .next [State.reset.idle, State.reset] ∧
    stepAt 1 [State.reset, State.reset] = .next [State.reset, State.reset.idle] := ⟨by decide, rfl, rfl⟩

theorem witness_DecodeAndEncodeAgree : decode 0x12FF = .ok (.encodeAscii 0xFF) := by decide

theorem witness_DecoderFollowsOpcodeTable : (⟨"ASCII_TO_RTU", 0xFFFF, 0x1500⟩ : OpcodeRow) ∈ opcodeTable := by decide

/-- The ends of the reserved ranges (first clause) and of the non-zero operands (`refusesOperand`). -/
theorem witness_IllegalWordsRaiseIllegalCmd :
    (one .rtu 0 0 0x16FF []).issue = .command 0x16FF [] :: [] ∧
    ([] : Bytes).length ≤ (one .rtu 0 0 0x16FF []).params.maxInLen ∧
    isReservedOp ((0x00FF : CmdWord).toNat / 256) ∧ isReservedOp ((0x0600 : CmdWord).toNat / 256) ∧
    isReservedOp ((0x0F01 : CmdWord).toNat / 256) ∧ isReservedOp ((0x16FF : CmdWord).toNat / 256) ∧
    isReservedOp ((0xFFFF : CmdWord).toNat / 256) ∧
    (0x01 ∈ operandFreeOps ∧ (0x0101 : CmdWord).toNat / 256 = 0x01 ∧ (0x0101 : CmdWord).toNat % 256 ≠ 0) ∧
    (0x15 ∈ operandFreeOps ∧ (0x15FF : CmdWord).toNat / 256 = 0x15 ∧ (0x15FF : CmdWord).toNat % 256 ≠ 0) := by
  unfold isReservedOp
  decide

theorem witness_ProfileGatesFourCommands :
    neededProfile (.encodeRtu 0) = some .rtu ∧ (one .ascii 0 0 0x1000 []).profile ≠ .rtu ∧
    neededProfile .decodeAscii = some .ascii ∧ (one .rtu 0 0 0x1300 []).profile ≠ .ascii ∧
    neededProfile .lrcInit = none ∧
    exec .lrcInit State.reset = .next ((State.setLrcSum 0 State.reset).returning {}) :=
  ⟨rfl, by decide, rfl, by decide, rfl, rfl⟩

theorem witness_CheckedSequencesHaveZeroResidue : (one .rtu 0 0 0x0C00 [0x00]).input ≠ [] := by decide

/-- Both lengths below two, the empty payload, and a swapped frame (V2.12). -/
theorem witness_CrcValidateComparesTrailingCrc :
    (one .rtu 0 0 0x0500 []).input.length < 2 ∧ (one .rtu 0 0 0x0500 [0x0A]).input.length < 2 ∧
    (one .rtu 0 0 0x0500 [0xFF, 0xFF]).input = [] ++ [0xFF, 0xFF] ∧
    ((0xC5 : Byte).toNat + 256 * (0x70 : Byte).toNat = (crc16 [0x0A, 0x03, 0x00, 0x00, 0x00, 0x02]).toNat ∧
      (one .rtu 0 0 0x0500 [0x0A, 0x03, 0x00, 0x00, 0x00, 0x02, 0x70, 0xC5]).input
        = [0x0A, 0x03, 0x00, 0x00, 0x00, 0x02] ++ [0x70, 0xC5]) := by decide +kernel

theorem witness_LrcValidateComparesTrailingLrc :
    (one .rtu 0 0 0x0C00 []).input = [] ∧ (one .rtu 0 0 0x0C00 [0x00]).input = [] ++ [0x00] := ⟨rfl, rfl⟩

theorem witness_HexEncodingIsUppercaseHighNibbleFirst : (0 : Nat) < ([0xAF] : Bytes).length := by decide

theorem witness_FrameLengthsFollowThePdu : (List.replicate 253 (0 : Byte)).length ≤ 253 := by decide +kernel

/-- The encoder's own text is a hex text of what it encodes. -/
theorem hexText_of_hexEnc (lower : Bool) (s : Bytes) : hexText lower (hexEnc s) s := by
  induction s with
  | nil => exact ⟨rfl, fun k hk => absurd hk (Nat.not_lt_zero k)⟩
  | cons b s ih =>
    refine ⟨hexEnc_length (b :: s), fun k hk => ?_⟩
    cases k with
    | zero =>
      refine ⟨_, _, hexVal_hexDig lower (b.extractLsb' 4 4), hexVal_hexDig lower (b.extractLsb' 0 4), ?_⟩
      have hb := b.isLt
      simp [Nat.shiftRight_eq_div_pow]
      omega
    | succ k =>
      obtain ⟨hi, lo, h⟩ := ih.2 k (by simpa using hk)
      exact ⟨hi, lo, by simpa [hexEnc, hexEncByte, Nat.mul_add] using h⟩

/-- The ends of both PDU ranges, and of the frames a converter takes. -/
theorem witness_AddressesAreClassifiedNotRefused :
    (1 ≤ (one .rtu 0 0 0x1000 [0x07]).input.length ∧ (one .rtu 0 0 0x1000 [0x07]).input.length ≤ 253) ∧
    (1 ≤ (one .ascii 0 0 0x12FF (List.replicate 253 0)).input.length ∧
      (one .ascii 0 0 0x12FF (List.replicate 253 0)).input.length ≤ 253) ∧
    ((one .rtu 0 0 0x1100 [0xF8, 1, 2, 3]).input = 0xF8 :: [1, 2, 3] ∧ 3 ≤ ([1, 2, 3] : Bytes).length) ∧
    (3 ≤ (List.replicate 255 (0 : Byte)).length ∧ (List.replicate 255 (0 : Byte)).length ≤ 255) ∧
    (3 ≤ ([0x83, 0x02, 0x71] : Bytes).length ∧ (List.replicate 254 (0 : Byte)).length ≤ 254 ∧
      hexText false (hexEnc [0x0A, 0x83, 0x02, 0x71]) (0x0A :: [0x83, 0x02, 0x71]) ∧
      (one .ascii 0 0 0x1300 [0x3A, 0x30, 0x41, 0x38, 0x33, 0x30, 0x32, 0x37, 0x31, 0x0D, 0x0A]).input
        = [0x3A] ++ hexEnc [0x0A, 0x83, 0x02, 0x71] ++ [0x0D, 0x0A]) :=
  ⟨by decide, by decide +kernel, by decide, by decide +kernel, by decide, by decide +kernel, hexText_of_hexEnc _ _, by decide +kernel⟩

/-- Wrong profile; an empty PDU and one of 254 bytes; one of 1 byte and one of 253. -/
theorem witness_EncodeRtuWritesTheFrame :
    (one .ascii 0 0 0x1000 []).profile ≠ .rtu ∧ (one .rtu 0 0 0x1000 []).profile = .rtu ∧
    (one .rtu 0 0 0x1000 []).input.length < 1 ∧ 253 < (one .rtu 0 0 0x1000 (List.replicate 254 0)).input.length ∧
    1 ≤ (one .rtu 0 0 0x1000 [0x07]).input.length ∧
    (one .rtu 0 0 0x1000 (List.replicate 253 0)).input.length ≤ 253 := by decide +kernel

theorem witness_EncodeAsciiWritesTheFrame :
    (one .rtu 0 0 0x1200 []).profile ≠ .ascii ∧ (one .ascii 0 0 0x1200 []).profile = .ascii ∧
    (one .ascii 0 0 0x1200 []).input.length < 1 ∧ 253 < (one .ascii 0 0 0x1200 (List.replicate 254 0)).input.length ∧
    1 ≤ (one .ascii 0 0 0x1200 [0x07]).input.length ∧
    (one .ascii 0 0 0x1200 (List.replicate 253 0)).input.length ≤ 253 := by decide +kernel

/-- Wrong profile; three bytes; four bytes, a PDU of one. -/
theorem witness_DecodeRtuReadsTheFrame :
    (one .ascii 0 0 0x1100 []).profile ≠ .rtu ∧ (one .rtu 0 0 0x1100 []).profile = .rtu ∧
    (one .rtu 0 0 0x1100 [1, 2, 3]).input.length < 4 ∧
    (([0x03] : Bytes) ≠ [] ∧ (one .rtu 0 0 0x1100 [0xFF, 0x03, 0x00, 0x41]).input = [0xFF] ++ [0x03] ++ [0x00, 0x41]) := by
  decide

/-- V5.7's eleven characters with each fault a decoder looks for, in order, and without one. -/
theorem witness_DecodeAsciiReadsTheFrame :
    (one .rtu 0 0 0x1300 []).profile ≠ .ascii ∧ (one .ascii 0 0 0x1300 []).profile = .ascii ∧
    (one .ascii 0 0 0x1300 (List.replicate 10 0x3A)).input.length < 11 ∧
    (11 ≤ (one .ascii 0 0 0x1300 (List.replicate 11 0x3A)).input.length ∧
      (one .ascii 0 0 0x1300 (List.replicate 11 0x3A)).input.drop 9 ≠ [0x0D, 0x0A]) ∧
    (8 ≤ (List.replicate 9 (0x30 : Byte)).length ∧ (List.replicate 9 (0x30 : Byte)).length % 2 = 1) ∧
    (8 ≤ (List.replicate 8 (0x47 : Byte)).length ∧ ∃ c ∈ List.replicate 8 (0x47 : Byte), hexVal true c = none) ∧
    (8 ≤ (hexEnc [0x0A, 0x83, 0x02, 0x71]).length ∧
      hexText false (hexEnc [0x0A, 0x83, 0x02, 0x71]) ([0x0A] ++ [0x83, 0x02] ++ [0x71]) ∧
      (one .ascii 0 0 0x1300 [0x3A, 0x30, 0x41, 0x38, 0x33, 0x30, 0x32, 0x37, 0x31, 0x0D, 0x0A]).input
        = [0x3A] ++ hexEnc [0x0A, 0x83, 0x02, 0x71] ++ [0x0D, 0x0A]) :=
  ⟨by decide, by decide, by decide, by decide, by decide, by decide, by decide, hexText_of_hexEnc _ _, by decide +kernel⟩

/-- Three bytes, 257 bytes, and a frame with a PDU of one byte and of 253. -/
theorem witness_RtuToAsciiReframes :
    (one .rtu 0 0 0x1400 [1, 2, 3]).input.length < 4 ∧ 256 < (one .rtu 0 0 0x1400 (List.replicate 257 0)).input.length ∧
    (([0x07] : Bytes) ≠ [] ∧ ([0x07] : Bytes).length ≤ 253 ∧
      (one .rtu 0 0 0x1400 [0x01, 0x07, 0x41, 0xE2]).input = [0x01] ++ [0x07] ++ [0x41, 0xE2]) ∧
    ((List.replicate 253 (0 : Byte)).length ≤ 253 ∧
      (one .rtu 0 0 0x1400 (List.replicate 256 0)).input = [0] ++ List.replicate 253 0 ++ [0, 0]) := by decide +kernel

/-- A text whose PDU has two bytes, and one whose PDU has 254. -/
theorem witness_AsciiToRtuReframes :
    (one .rtu 0 0 0x1500 (List.replicate 10 0x3A)).input.length < 11 ∧
    (11 ≤ (one .rtu 0 0 0x1500 (List.replicate 11 0x30)).input.length ∧
      (one .rtu 0 0 0x1500 (List.replicate 11 0x30)).input.head? ≠ some 0x3A) ∧
    (8 ≤ (List.replicate 9 (0x30 : Byte)).length ∧ (List.replicate 9 (0x30 : Byte)).length % 2 = 1) ∧
    (8 ≤ (hexEnc [0x0A, 0x83, 0x02, 0x71]).length ∧
      hexText false (hexEnc [0x0A, 0x83, 0x02, 0x71]) ([0x0A] ++ [0x83, 0x02] ++ [0x71]) ∧
      ([0x83, 0x02] : Bytes).length ≤ 253) ∧
    (8 ≤ (hexEnc ([0] ++ List.replicate 254 0 ++ [0])).length ∧
      hexText false (hexEnc ([0] ++ List.replicate 254 0 ++ [0])) ([0] ++ List.replicate 254 0 ++ [0]) ∧
      253 < (List.replicate 254 (0 : Byte)).length) :=
  ⟨by decide, by decide, by decide, ⟨by decide, hexText_of_hexEnc _ _, by decide⟩,
    by rw [hexEnc_length]; decide +kernel, hexText_of_hexEnc _ _, by decide +kernel⟩

/-- A PDU of one byte and of 253, and a receiver that has the encoder's frame as its `IN`. -/
theorem witness_RtuFramesRoundTrip :
    (one .rtu 0 0 0x10FF [0x03]).profile = .rtu ∧ 1 ≤ (one .rtu 0 0 0x10FF [0x03]).input.length ∧
    (one .rtu 0 0 0x10FF (List.replicate 253 0)).input.length ≤ 253 ∧
    after (exec (.encodeRtu 0xFF) (one .rtu 0 0 0x10FF [0x03])) = some (0, 0, some
      { value := 0x4100,
        out := (one .rtu 0 0 0x1100 [0xFF, 0x03, 0x00, 0x41]).input }) := by decide +kernel

theorem witness_AsciiFramesRoundTrip :
    (one .ascii 0 0 0x120A [0x83, 0x02]).profile = .ascii ∧ 2 ≤ (one .ascii 0 0 0x120A [0x83, 0x02]).input.length ∧
    (one .ascii 0 0 0x120A (List.replicate 253 0)).input.length ≤ 253 ∧
    after (exec (.encodeAscii 0x0A) (one .ascii 0 0 0x120A [0x83, 0x02])) = some (0, 0, some
      { value := 0x0071,
        out := (one .ascii 0 0 0x1300 [0x3A, 0x30, 0x41, 0x38, 0x33, 0x30, 0x32, 0x37, 0x31, 0x0D, 0x0A]).input }) := by
  decide +kernel

/-- V5.9, V4.12. -/
theorem witness_OneBytePduFitsRtuButNotAscii :
    (one .ascii 0 0 0x1201 [0x07]).profile = .ascii ∧ (one .ascii 0 0 0x1201 [0x07]).input = [0x07] ∧
    after (exec (.encodeAscii 0x01) (one .ascii 0 0 0x1201 [0x07])) = some (0, 0, some
      { value := 0x00F8,
        out := (one .ascii 0 0 0x1300 [0x3A, 0x30, 0x31, 0x30, 0x37, 0x46, 0x38, 0x0D, 0x0A]).input }) ∧
    (one .rtu 0 0 0x1001 [0x07]).profile = .rtu ∧ (one .rtu 0 0 0x1001 [0x07]).input = [0x07] ∧
    after (exec (.encodeRtu 0x01) (one .rtu 0 0 0x1001 [0x07])) = some (0, 0, some
      { value := 0xE241,
        out := (one .rtu 0 0 0x1100 [0x01, 0x07, 0x41, 0xE2]).input }) := by decide +kernel

theorem witness_PureCommandsDependOnInputAlone :
    changesRegister .crcRead = false ∧ (one .rtu 0x1234 0 0x0300 []).input = (one .rtu 0x1234 0x7E 0x0300 []).input ∧
    (one .rtu 0x1234 0 0x0300 []).profile = (one .rtu 0x1234 0x7E 0x0300 []).profile ∧
    (one .rtu 0x1234 0 0x0300 []).params.asciiAcceptLowercase = (one .rtu 0x1234 0x7E 0x0300 []).params.asciiAcceptLowercase ∧
    (Instr.crcRead = .crcRead → (one .rtu 0x1234 0 0x0300 []).crc = (one .rtu 0x1234 0x7E 0x0300 []).crc) ∧
    (Instr.crcRead = .lrcRead → (one .rtu 0x1234 0 0x0300 []).lrcSum = (one .rtu 0x1234 0x7E 0x0300 []).lrcSum) := by decide

/-- P4, lines 3 and 4. -/
theorem witness_ConvertersComposeToIdentity :
    2 ≤ ([0x83, 0x02] : Bytes).length ∧ ([0x83, 0x02] : Bytes).length ≤ 253 ∧
    (one .rtu 0 0 0x1400 [0x0A, 0x83, 0x02, 0xB1, 0x33]).input = [0x0A] ++ [0x83, 0x02] ++
      [(crc16 ([0x0A] ++ [0x83, 0x02])).extractLsb' 0 8, (crc16 ([0x0A] ++ [0x83, 0x02])).extractLsb' 8 8] ∧
    after (exec .rtuToAscii (one .rtu 0 0 0x1400 [0x0A, 0x83, 0x02, 0xB1, 0x33])) = some (0, 0, some
      { chkOk := true,
        rxCheck := 0x33B1, calcCheck := 0x33B1, addr := 0x0A, addrClass := .unicast, value := 0x0071,
        out := (one .rtu 0 0 0x1500 [0x3A, 0x30, 0x41, 0x38, 0x33, 0x30, 0x32, 0x37, 0x31, 0x0D, 0x0A]).input }) := by
  decide +kernel

/-- The frame of P4 with its CRC bytes swapped. -/
theorem witness_ConverterHidesCorruption :
    2 ≤ ([0x83, 0x02] : Bytes).length ∧ ([0x83, 0x02] : Bytes).length ≤ 253 ∧
    (one .rtu 0 0 0x1400 [0x0A, 0x83, 0x02, 0x33, 0xB1]).input = [0x0A] ++ [0x83, 0x02] ++ [0x33, 0xB1] ∧
    (one .ascii 0 0 0x1300 []).profile = .ascii ∧
    after (exec .rtuToAscii (one .rtu 0 0 0x1400 [0x0A, 0x83, 0x02, 0x33, 0xB1])) = some (0, 0, some
      { chkOk := false,
        rxCheck := 0xB133, calcCheck := 0x33B1, addr := 0x0A, addrClass := .unicast, value := 0x0071,
        out := (one .ascii 0 0 0x1300 [0x3A, 0x30, 0x41, 0x38, 0x33, 0x30, 0x32, 0x37, 0x31, 0x0D, 0x0A]).input }) := by
  decide +kernel

theorem witness_CrcStreamEqualsCrcCompute :
    ({ State.reset with issue := (Pseudo.crcStream [0x0A]).events } : State).issue = (Pseudo.crcStream [0x0A]).events ∧
    (one .rtu 0 0 0x0400 [0x0A]).input = [0x0A] := ⟨rfl, rfl⟩

theorem witness_LrcStreamEqualsLrcCompute :
    ({ State.reset with issue := (Pseudo.lrcStream []).events } : State).issue = (Pseudo.lrcStream []).events ∧
    (one .rtu 0 0 0x0B00 []).input = [] := ⟨rfl, rfl⟩

theorem witness_ResetStartsACrcStream :
    ({ State.reset with issue := [.reset, .command 0x020A [], .command 0x0300 []] } : State).issue
      = [.reset] ++ (([0x0A] : Bytes).map Instr.crcFeed).map (issueOf []) ++ [issueOf [] .crcRead] ∧
    (one .rtu 0 0 0x0400 [0x0A]).input = [0x0A] ∧
    ({ State.reset with issue := [.reset, .command 0x0902 [], .command 0x0A00 []] } : State).issue
      = [.reset] ++ (([0x02] : Bytes).map Instr.lrcFeed).map (issueOf []) ++ [issueOf [] .lrcRead] ∧
    (one .rtu 0 0 0x0B00 [0x02]).input = [0x02] := by decide

theorem witness_PureCommandsInterleaveWithStreams :
    (one .rtu 0 0 0x0400 [0x0A]).issue = .command 0x0400 [0x0A] :: [] ∧
    ([0x0A] : Bytes).length ≤ (one .rtu 0 0 0x0400 [0x0A]).params.maxInLen ∧ decode 0x0400 = .ok .crcCompute ∧
    changesRegister .crcCompute = false := by decide

theorem witness_StatusIsTheFirstFailingCheck :
    (one .rtu 0 0 0xFFFF (List.replicate 513 0)).issue = .command 0xFFFF (List.replicate 513 0) :: [] ∧
    (List.replicate 513 (0 : Byte)).length ≤ (one .rtu 0 0 0xFFFF (List.replicate 513 0)).params.maxInLen :=
  ⟨rfl, by decide +kernel⟩

/-- The checks meet where the spec's vectors say: V5.12 (length before marker), V5.17 (odd), V6.7 (257 bytes), a text of 515
characters. -/
theorem witness_expectedStatus_boundaries :
    expectedStatus .ascii false 0x1300 [0x3B, 0x30, 0x41, 0x38, 0x33, 0x30, 0x32, 0x37, 0x0D, 0x0A] = .rangeLength ∧
    expectedStatus .ascii false 0x1300 [0x3A, 0x30, 0x41, 0x30, 0x33, 0x30, 0x30, 0x30, 0x30, 0x30, 0x30, 0x32, 0x46, 0x31, 0x0D,
      0x0A] = .rangeHex ∧
    expectedStatus .rtu false 0x1400 (List.replicate 257 0) = .rangePdu ∧
    expectedStatus .rtu false 0x1400 (List.replicate 256 0) = .ok ∧
    expectedStatus .rtu false 0x1500 ([0x3A] ++ List.replicate 512 0x30 ++ [0x0D, 0x0A]) = .rangePdu ∧
    expectedStatus .rtu false 0x1500 ([0x3A] ++ List.replicate 510 0x30 ++ [0x0D, 0x0A]) = .ok := by decide +kernel

theorem witness_ErrorsWriteNoState :
    step (one .rtu 0x1234 0x7E 0x1600 []) = .next ((one .rtu 0x1234 0x7E 0x1600 []).returning (errorResult .illegalCmd)) ∧
    ((one .rtu 0x1234 0x7E 0x1600 []).returning (errorResult .illegalCmd)).result = some (errorResult .illegalCmd) ∧
    (errorResult .illegalCmd).status ≠ .ok := ⟨by rfl, rfl, by decide⟩

theorem witness_OnlyStreamCommandsTouchRegisters :
    exec .crcInit (one .rtu 0x1234 0x7E 0x0100 []) = .next ((State.setCrc 0xFFFF (one .rtu 0x1234 0x7E 0x0100 [])).returning {}) ∧
    (0xFFFF : Half) ≠ (one .rtu 0x1234 0x7E 0x0100 []).crc ∧ Instr.crcInit ≠ .crcRead ∧
    exec (.lrcFeed 1) (one .rtu 0x1234 0x7E 0x0901 []) = .next ((State.setLrcSum 0x7F (one .rtu 0x1234 0x7E 0x0901 [])).returning {}) ∧
    (0x7F : Byte) ≠ (one .rtu 0x1234 0x7E 0x0901 []).lrcSum ∧ Instr.lrcFeed 1 ≠ .lrcRead :=
  ⟨rfl, by decide, by decide, rfl, by decide, by decide⟩

theorem witness_RepeatingACommandChangesNothing :
    ({ State.reset with issue := [.command 0x0100 [], .command 0x0100 []] } : State).issue
      = .command 0x0100 [] :: .command 0x0100 [] :: [] ∧
    ([] : Bytes).length ≤ State.reset.params.maxInLen ∧ decode 0x0100 = .ok .crcInit ∧
    (∀ b, Instr.crcInit ≠ .crcFeed b) ∧ (∀ b, Instr.crcInit ≠ .lrcFeed b) :=
  ⟨rfl, by decide, by decide, by simp, by simp⟩

theorem witness_StreamCommandsIgnoreInput :
    Instr.lrcRead ∈ [Instr.crcInit, .crcRead, .lrcInit, .lrcRead] ∧
    exec .lrcRead { State.reset with issue := .command 0x0A00 [1, 2] :: [] }
      = .next ({ State.reset with issue := .command 0x0A00 [1, 2] :: [] }.returning (lrcResult 0)) := ⟨by decide, rfl⟩

end Sys2Proof.Tests
end

section
/-! The facts the scope statements (spec/00_scope.md) need: the operations, the splits, the frames, the invariant. -/

namespace Sys2Proof

/-- The capacity bound of R9, as an inequality. -/
theorem Params.wf_iff (p : Params) : p.wf = true ↔ 513 ≤ p.maxInLen := by
  simp [Params.wf]

end Sys2Proof

namespace Sys2Proof.Machine

/-! Frame lengths (R6, R48). -/

@[simp] theorem rtuFrame_length (a : Byte) (p : Bytes) : (rtuFrame a p).length = p.length + 3 := by
  simp [rtuFrame]

@[simp] theorem asciiFrame_length (a : Byte) (p : Bytes) : (asciiFrame a p).length = 2 * p.length + 7 := by
  simp [asciiFrame, hexEnc_length]
  omega

/-- Hex decoding takes two characters a byte (R44). -/
theorem hexDec_length {lower : Bool} : ∀ {t r : Bytes}, hexDec lower t = some r → t.length = 2 * r.length
  | [], r, h => by
    cases h
    rfl
  | [_], r, h => by simp [hexDec] at h
  | hi :: lo :: t, r, h => by
    unfold hexDec at h
    split at h
    next ht =>
      have ih := hexDec_length ht
      cases h
      simp only [List.length_cons]
      omega
    next => cases h

@[simp] theorem slice_length (s : Bytes) (a b : Nat) : (slice s a b).length = min b s.length - a := by
  simp [slice]

/-! What a split, an encoder and a converter return when they raise no status. -/

/-- A split RTU frame is a decoded Result whose PDU is the frame without address and CRC (R69). -/
theorem rtuSplit_eq_ok {frame : Bytes} {r : Result} (h : rtuSplit frame = .ok r) :
    ∃ a pdu rx computed, r = decodedResult a pdu rx computed ∧ pdu.length + 3 = frame.length := by
  by_cases hl : frame.length < 4
  · rw [rtuSplit_short hl] at h
    cases h
  · rw [rtuSplit, rtuMinFrame, if_neg hl] at h
    refine ⟨_, _, _, _, (Except.ok.inj h).symm, ?_⟩
    rw [slice_length]
    omega

/-- A split ASCII frame is a decoded Result, two characters for each byte of address, PDU and LRC (R71). -/
theorem asciiSplit_eq_ok {lower : Bool} {frame : Bytes} {r : Result} (h : asciiSplit lower frame = .ok r) :
    ∃ a pdu rx computed, r = decodedResult a pdu rx computed ∧ 2 * pdu.length + 7 = frame.length := by
  rw [asciiSplit, asciiMinFrame] at h
  split at h
  · cases h
  split at h
  · cases h
  dsimp only at h
  split at h
  · cases h
  split at h
  · cases h
  next bytes hd =>
    have hlen := hexDec_length hd
    rw [slice_length] at hlen
    refine ⟨_, _, _, _, (Except.ok.inj h).symm, ?_⟩
    rw [slice_length]
    omega

theorem rtuEncode_eq_ok {a : Byte} {pdu : Bytes} {r : Result} (h : rtuEncode a pdu = .ok r) :
    pdu.length ≤ 253 ∧ r = { value := crc16 ([a] ++ pdu), out := rtuFrame a pdu } := by
  by_cases hp : pduLengthOk pdu = true
  · rw [rtuEncode, if_pos hp] at h
    exact ⟨((pduLengthOk_iff pdu).mp hp).2, (Except.ok.inj h).symm⟩
  · rw [rtuEncode, if_neg hp] at h
    cases h

theorem asciiEncode_eq_ok {a : Byte} {pdu : Bytes} {r : Result} (h : asciiEncode a pdu = .ok r) :
    pdu.length ≤ 253 ∧ r = { value := (lrc8 ([a] ++ pdu)).setWidth 16, out := asciiFrame a pdu } := by
  by_cases hp : pduLengthOk pdu = true
  · rw [asciiEncode, if_pos hp] at h
    exact ⟨((pduLengthOk_iff pdu).mp hp).2, (Except.ok.inj h).symm⟩
  · rw [asciiEncode, if_neg hp] at h
    cases h

theorem reframeAsAscii_eq_ok {d r : Result} (h : reframeAsAscii d = .ok r) :
    d.out.length ≤ 253 ∧
      r = { d with value := (lrc8 ([d.addr] ++ d.out)).setWidth 16, out := asciiFrame d.addr d.out } := by
  by_cases hp : pduMax < d.out.length
  · rw [reframeAsAscii, if_pos hp] at h
    cases h
  · rw [reframeAsAscii, if_neg hp] at h
    exact ⟨Nat.not_lt.mp hp, (Except.ok.inj h).symm⟩

theorem reframeAsRtu_eq_ok {d r : Result} (h : reframeAsRtu d = .ok r) :
    d.out.length ≤ 253 ∧ r = { d with value := crc16 ([d.addr] ++ d.out), out := rtuFrame d.addr d.out } := by
  by_cases hp : pduMax < d.out.length
  · rw [reframeAsRtu, if_pos hp] at h
    cases h
  · rw [reframeAsRtu, if_neg hp] at h
    exact ⟨Nat.not_lt.mp hp, (Except.ok.inj h).symm⟩

/-- A sequence of two computations that ends well went through both. -/
theorem bind_eq_ok {e : Except Status Result} {f : Result → Except Status Result} {r : Result}
    (h : e.bind f = .ok r) : ∃ d, e = .ok d ∧ f d = .ok r := by
  cases e with
  | ok d => exact ⟨d, rfl, h⟩
  | error c => cases h

theorem crcValidate_eq_ok {frame : Bytes} {r : Result} (h : crcValidate frame = .ok r) :
    ∃ rx computed, r = Result.withCheck rx computed {} := by
  rw [crcValidate] at h
  split at h
  · cases h
  · exact ⟨_, _, (Except.ok.inj h).symm⟩

theorem lrcValidate_eq_ok {frame : Bytes} {r : Result} (h : lrcValidate frame = .ok r) :
    ∃ rx computed, r = Result.withCheck rx computed {} := by
  rw [lrcValidate] at h
  split at h
  · cases h
  · exact ⟨_, _, (Except.ok.inj h).symm⟩

/-! The Results a command can return are well formed. -/

theorem Result.wf_iff (p : Params) (r : Result) :
    r.wf p = true ↔
      (r.status = .ok ∨ r = { status := r.status }) ∧
      (r.chkOk = true → r.rxCheck = r.calcCheck) ∧
      ((r.addrClass = .none ∧ r.addr = 0x00#8) ∨ r.addrClass = addrClassOf r.addr) ∧
      r.out.length ≤ max 513 (p.maxInLen - 3) := by
  simp only [Result.wf, Bool.and_eq_true, decide_eq_true_eq, and_assoc]

theorem errorResult_wf (p : Params) (c : Status) : (errorResult c).wf p = true :=
  (Result.wf_iff p _).mpr ⟨.inr rfl, by simp [errorResult], .inl ⟨rfl, rfl⟩, Nat.zero_le _⟩

/-- A Result with neither check fields nor an address: what the INIT, FEED, READ and COMPUTE commands and the encoders return. -/
theorem Result.wf_plain (p : Params) (v : Half) {out : Bytes} (h : out.length ≤ 513) :
    Result.wf p { value := v, out := out } = true :=
  (Result.wf_iff p _).mpr ⟨.inl rfl, by simp, .inl ⟨rfl, rfl⟩, h.trans (Nat.le_max_left _ _)⟩

theorem emptyResult_wf (p : Params) : Result.wf p {} = true := Result.wf_plain p 0 (Nat.zero_le 513)

theorem crcResult_wf (p : Params) (c : Half) : (crcResult c).wf p = true :=
  Result.wf_plain p c (by simp)

theorem lrcResult_wf (p : Params) (l : Byte) : (lrcResult l).wf p = true :=
  Result.wf_plain p (l.setWidth 16) (by simp)

/-- Writing the check fields together keeps a Result with STATUS 0 well formed: `CHK_OK` is their comparison (R20). -/
theorem Result.withCheck_wf {p : Params} {r : Result} (rx computed : Half) (hs : r.status = .ok) (h : r.wf p = true) :
    (r.withCheck rx computed).wf p = true := by
  obtain ⟨-, -, haddr, hout⟩ := (Result.wf_iff p r).mp h
  exact (Result.wf_iff p _).mpr ⟨.inl hs, of_decide_eq_true, haddr, hout⟩

theorem decodedResult_wf {p : Params} (a : Byte) {pdu : Bytes} (rx computed : Half)
    (h : pdu.length ≤ max 513 (p.maxInLen - 3)) : (decodedResult a pdu rx computed).wf p = true :=
  Result.withCheck_wf rx computed rfl <|
    (Result.wf_iff p _).mpr ⟨.inl rfl, by simp, .inr rfl, h⟩

/-- Re-framing replaces `VALUE` and `OUT`, which no other field's condition reads while STATUS is 0. -/
theorem Result.reframed_wf {p : Params} {d : Result} (v : Half) {out : Bytes} (hs : d.status = .ok) (h : d.wf p = true)
    (hl : out.length ≤ 513) : Result.wf p { d with value := v, out := out } = true := by
  obtain ⟨-, hchk, haddr, -⟩ := (Result.wf_iff p d).mp h
  exact (Result.wf_iff p _).mpr ⟨.inl hs, hchk, haddr, hl.trans (Nat.le_max_left _ _)⟩

/-- Every Result `e` can return is well formed, with STATUS 0. -/
def GoodAnswers (p : Params) (e : Except Status Result) : Prop :=
  ∀ r, e = .ok r → r.status = .ok ∧ r.wf p = true

theorem crcValidate_good (p : Params) (frame : Bytes) : GoodAnswers p (crcValidate frame) := by
  intro r h
  obtain ⟨rx, computed, rfl⟩ := crcValidate_eq_ok h
  exact ⟨rfl, Result.withCheck_wf rx computed rfl (emptyResult_wf p)⟩

theorem lrcValidate_good (p : Params) (frame : Bytes) : GoodAnswers p (lrcValidate frame) := by
  intro r h
  obtain ⟨rx, computed, rfl⟩ := lrcValidate_eq_ok h
  exact ⟨rfl, Result.withCheck_wf rx computed rfl (emptyResult_wf p)⟩

theorem rtuEncode_good (p : Params) (a : Byte) (pdu : Bytes) : GoodAnswers p (rtuEncode a pdu) := by
  intro r h
  obtain ⟨hl, rfl⟩ := rtuEncode_eq_ok h
  exact ⟨rfl, Result.wf_plain p _ (by rw [rtuFrame_length]; omega)⟩

theorem asciiEncode_good (p : Params) (a : Byte) (pdu : Bytes) : GoodAnswers p (asciiEncode a pdu) := by
  intro r h
  obtain ⟨hl, rfl⟩ := asciiEncode_eq_ok h
  exact ⟨rfl, Result.wf_plain p _ (by rw [asciiFrame_length]; omega)⟩

/-- The one place the bound on `OUT` needs the capacity: a split RTU frame has no upper bound but `IN`'s (R69, log 8). -/
theorem rtuSplit_good {p : Params} {frame : Bytes} (hl : frame.length ≤ p.maxInLen) : GoodAnswers p (rtuSplit frame) := by
  intro r h
  obtain ⟨a, pdu, rx, computed, rfl, hlen⟩ := rtuSplit_eq_ok h
  exact ⟨rfl, decodedResult_wf a rx computed (by omega)⟩

theorem asciiSplit_good {p : Params} {frame : Bytes} (hl : frame.length ≤ p.maxInLen) (lower : Bool) :
    GoodAnswers p (asciiSplit lower frame) := by
  intro r h
  obtain ⟨a, pdu, rx, computed, rfl, hlen⟩ := asciiSplit_eq_ok h
  exact ⟨rfl, decodedResult_wf a rx computed (by omega)⟩

theorem reframeAsAscii_good {p : Params} {e : Except Status Result} (he : GoodAnswers p e) :
    GoodAnswers p (e.bind reframeAsAscii) := by
  intro r h
  obtain ⟨d, hd, hr⟩ := bind_eq_ok h
  obtain ⟨hs, hwf⟩ := he d hd
  obtain ⟨hl, rfl⟩ := reframeAsAscii_eq_ok hr
  exact ⟨hs, Result.reframed_wf _ hs hwf (by rw [asciiFrame_length]; omega)⟩

theorem reframeAsRtu_good {p : Params} {e : Except Status Result} (he : GoodAnswers p e) :
    GoodAnswers p (e.bind reframeAsRtu) := by
  intro r h
  obtain ⟨d, hd, hr⟩ := bind_eq_ok h
  obtain ⟨hs, hwf⟩ := he d hd
  obtain ⟨hl, rfl⟩ := reframeAsRtu_eq_ok hr
  exact ⟨hs, Result.reframed_wf _ hs hwf (by rw [rtuFrame_length]; omega)⟩

/-! The invariant after each way a step can end. -/

theorem State.inv_iff (s : State) :
    s.inv = true ↔ s.params.wf = true ∧ ∀ r, s.result = some r → r.wf s.params = true := by
  cases h : s.result <;> simp [State.inv, h]

theorem State.inv_of_no_result {s : State} (hp : s.params.wf = true) (h : s.result = none) : s.inv = true :=
  s.inv_iff.mpr ⟨hp, by simp [h]⟩

theorem State.returning_inv {s : State} {r : Result} (hp : s.params.wf = true) (hr : r.wf s.params = true) :
    (s.returning r).inv = true :=
  (s.returning r).inv_iff.mpr ⟨hp, by simpa using hr⟩

theorem complete_inv {s t : State} {r : Result} (hp : s.params.wf = true) (hr : r.wf s.params = true)
    (h : complete r s = .next t) : t.inv = true := by
  cases h
  exact State.returning_inv hp hr

theorem conclude_inv {s t : State} {e : Except Status Result} (hp : s.params.wf = true) (he : GoodAnswers s.params e)
    (h : conclude e s = .next t) : t.inv = true := by
  cases e with
  | ok r => exact complete_inv hp (he r rfl).2 h
  | error c => exact complete_inv hp (errorResult_wf _ c) h

theorem gated_inv {s t : State} {p : Profile} {e : Except Status Result} (hp : s.params.wf = true)
    (he : GoodAnswers s.params e) (h : gated p e s = .next t) : t.inv = true := by
  by_cases hprof : s.profile = p
  · rw [gated_of_profile hprof] at h
    exact conclude_inv hp he h
  · rw [gated, if_neg hprof] at h
    exact complete_inv hp (errorResult_wf _ _) h

/-- Every command with an `IN` that fits ends in a state that meets the invariant, whatever the last Result was. -/
theorem exec_inv {i : Instr} {s t : State} (hp : s.params.wf = true) (hl : s.input.length ≤ s.params.maxInLen)
    (h : exec i s = .next t) : t.inv = true := by
  cases i with
  | crcInit => exact complete_inv (s := s.setCrc crcInitValue) hp (emptyResult_wf _) h
  | crcFeed b => exact complete_inv (s := s.setCrc (crcByte s.crc b)) hp (emptyResult_wf _) h
  | lrcInit => exact complete_inv (s := s.setLrcSum 0x00#8) hp (emptyResult_wf _) h
  | lrcFeed b => exact complete_inv (s := s.setLrcSum (lrcAdd s.lrcSum b)) hp (emptyResult_wf _) h
  | crcRead | crcCompute => exact complete_inv hp (crcResult_wf _ _) h
  | lrcRead | lrcCompute => exact complete_inv hp (lrcResult_wf _ _) h
  | crcValidate => exact conclude_inv hp (crcValidate_good _ _) h
  | lrcValidate => exact conclude_inv hp (lrcValidate_good _ _) h
  | encodeRtu a => exact gated_inv hp (rtuEncode_good _ a _) h
  | decodeRtu => exact gated_inv hp (rtuSplit_good hl) h
  | encodeAscii a => exact gated_inv hp (asciiEncode_good _ a _) h
  | decodeAscii => exact gated_inv hp (asciiSplit_good hl _) h
  | rtuToAscii => exact conclude_inv hp (reframeAsAscii_good (rtuSplit_good hl)) h
  | asciiToRtu => exact conclude_inv hp (reframeAsRtu_good (asciiSplit_good hl _)) h

/-- Every answering step under a legal capacity (R9) ends in a state that meets the invariant. -/
theorem step_inv {s t : State} (hp : s.params.wf = true) (h : step s = .next t) : t.inv = true := by
  obtain ⟨-, rfl⟩ | ⟨rest, -, rfl⟩ | ⟨w, input, rest, hi, hl, ⟨i, -, he⟩ | ⟨e, -, rfl⟩⟩ := step_next_cases h
  · exact State.inv_of_no_result hp rfl
  · exact State.inv_of_no_result hp rfl
  · exact exec_inv hp (by rwa [State.input_of_issue hi]) he
  · exact State.returning_inv hp (errorResult_wf _ _)

/-! What no command and no step changes. -/

theorem exec_keeps_configuration {i : Instr} {s t : State} (h : exec i s = .next t) :
    t.profile = s.profile ∧ t.params = s.params := by
  obtain ⟨c, u, r, hx⟩ := exec_shape i s
  cases hx.symm.trans h
  exact ⟨rfl, rfl⟩

/-- Steps with nothing issued: the first clears the last Result, the others change nothing (R1, R90). -/
theorem runSteps_of_nothing {s : State} (h : s.issue = []) (k : Nat) : runSteps (k + 1) s = .next s.idle := by
  induction k generalizing s with
  | zero => rw [runSteps_one, step_of_nothing h]
  | succ k ih =>
    rw [runSteps_succ (step_of_nothing h)]
    exact ih (s := s.idle) h

end Sys2Proof.Machine
end

section
/-! The statements about the scope of the block (spec/00_scope.md), settled. -/

namespace Sys2Proof.Proofs

open Sys2Proof.Machine

/-- Settles O3: only the parameters of the state before are needed, since a step writes the Result anew. -/
theorem everyStepKeepsInvariant : Obligations.EveryStepKeepsInvariant := by
  intro s t hs h
  exact step_inv (s.inv_iff.mp hs).1 h

/-- Settles O7, by the cases of an answering step. -/
theorem noStepChangesConfiguration : Obligations.NoStepChangesConfiguration := by
  intro s t h
  obtain ⟨-, rfl⟩ | ⟨rest, -, rfl⟩ | ⟨w, input, rest, -, -, ⟨i, -, he⟩ | ⟨e, -, rfl⟩⟩ := step_next_cases h
  · exact ⟨rfl, rfl⟩
  · exact ⟨rfl, rfl⟩
  · exact exec_keeps_configuration he
  · exact ⟨rfl, rfl⟩

/-- Settles O36. -/
theorem frameLengthsFollowThePdu : Obligations.FrameLengthsFollowThePdu := by
  intro a p
  rw [rtuFrame_length, asciiFrame_length]
  exact ⟨rfl, rfl, fun hp => by omega⟩

/-- Settles O2: there is no Result yet, so only the capacity counts. -/
theorem powerOnMeetsInvariant : Obligations.PowerOnMeetsInvariant := by
  have powerOn_inv : ∀ (p : Profile) (prm : Params), 513 ≤ prm.maxInLen → (State.powerOn p prm).inv = true :=
    fun p prm h => State.inv_of_no_result (prm.wf_iff.mpr h) rfl
  exact ⟨powerOn_inv, powerOn_inv _ _ le_rfl⟩

/-- Settles O6, by induction on the number of steps. -/
theorem blockNeverStartsAnAction : Obligations.BlockNeverStartsAnAction := by
  intro s k h
  exact runSteps_of_nothing h k

/-- Settles O8: the capacity check of R9 decides, once TCP is out. -/
theorem tcpAndSmallCapacityAreRefused : Obligations.TcpAndSmallCapacityAreRefused := by
  intro prm
  refine ⟨rfl, fun h => ?_, fun h => ?_⟩
  · have hp : prm.wf = true := prm.wf_iff.mpr h
    exact ⟨if_pos hp, if_pos hp⟩
  · have hp : ¬ prm.wf = true := fun hw => Nat.not_le.mpr h (prm.wf_iff.mp hw)
    exact ⟨if_neg hp, if_neg hp⟩

end Sys2Proof.Proofs
end

section
/-! The facts the state statements (spec/10_state.md) need: what a command's Result depends on, and how it sets `CHK_OK`. -/

namespace Sys2Proof.Machine

/-! What a command reads (R11, R12, R18, R77). -/

/-- The states `s` and `t` agree on everything the command `i` may read to make its Result: `IN`, PROFILE,
ASCII_ACCEPT_LOWERCASE, and the register of a READ command. -/
structure SameReads (i : Instr) (s t : State) : Prop where
  input : s.input = t.input
  profile : s.profile = t.profile
  lowercase : s.params.asciiAcceptLowercase = t.params.asciiAcceptLowercase
  crc : i = .crcRead → s.crc = t.crc
  lrcSum : i = .lrcRead → s.lrcSum = t.lrcSum

/-- The Result of a pure command is its pseudocode's, whatever the state. -/
theorem conclude_transfer {e : Except Status Result} {s t : State} {r : Result}
    (h : conclude e s = .next (s.returning r)) : conclude e t = .next (t.returning r) := by
  have result_eq : ∀ {q : Result}, complete q s = .next (s.returning r) → q = r := fun hq =>
    Option.some.inj (congrArg State.result (Host.Outcome.next.inj hq))
  cases e with
  | ok q => rw [← result_eq h, conclude_ok]
  | error c => rw [← result_eq h, conclude_error]

/-- The profile gate reads PROFILE and nothing else. -/
theorem gated_transfer {p : Profile} {e : Except Status Result} {s t : State} {r : Result} (hp : s.profile = t.profile)
    (h : gated p e s = .next (s.returning r)) : gated p e t = .next (t.returning r) := by
  by_cases hs : s.profile = p
  · rw [gated_of_profile hs] at h
    rw [gated_of_profile (hp ▸ hs)]
    exact conclude_transfer h
  · rw [gated_of_other hs] at h
    rw [gated_of_other (hp ▸ hs)]
    exact conclude_transfer (e := .error .profileMismatch) h

/-- From states that agree on what a command reads, a command that writes no register returns the same Result. -/
theorem exec_transfer {i : Instr} {s t : State} {r : Result} (hi : writesNoRegister i = true) (hst : SameReads i s t)
    (h : exec i s = .next (s.returning r)) : exec i t = .next (t.returning r) := by
  obtain ⟨hin, hprof, hlow, hcrc, hlrc⟩ := hst
  cases i with
  | crcInit | crcFeed _ | lrcInit | lrcFeed _ => cases hi
  | crcRead =>
    change conclude (.ok (crcResult t.crc)) t = _
    rw [← hcrc rfl]
    exact conclude_transfer h
  | lrcRead =>
    change conclude (.ok (lrcResult (lrcOfSum t.lrcSum))) t = _
    rw [← hlrc rfl]
    exact conclude_transfer h
  | crcCompute =>
    change conclude (.ok (crcResult (crc16 t.input))) t = _
    rw [← hin]
    exact conclude_transfer h
  | lrcCompute =>
    change conclude (.ok (lrcResult (lrc8 t.input))) t = _
    rw [← hin]
    exact conclude_transfer h
  | crcValidate | lrcValidate | rtuToAscii =>
    change conclude _ t = _
    rw [← hin]
    exact conclude_transfer h
  | asciiToRtu =>
    change conclude _ t = _
    rw [← hin, ← hlow]
    exact conclude_transfer h
  | encodeRtu _ | decodeRtu | encodeAscii _ =>
    change gated _ _ t = _
    rw [← hin]
    exact gated_transfer hprof h
  | decodeAscii =>
    change gated _ _ t = _
    rw [← hin, ← hlow]
    exact gated_transfer hprof h

/-- The three kinds of command: those that write no register, the two that compute a new CRC from CRC alone, and the two that
compute a new LRC_SUM from LRC_SUM alone. A command that writes a register returns the default Result (R55, R56, R60, R61). -/
theorem exec_kinds (i : Instr) :
    writesNoRegister i = true ∨
    ((i = .crcInit ∨ ∃ b, i = .crcFeed b) ∧
      ∃ f : Half → Half, ∀ s, exec i s = .next ((s.setCrc (f s.crc)).returning {})) ∨
    ((i = .lrcInit ∨ ∃ b, i = .lrcFeed b) ∧
      ∃ f : Byte → Byte, ∀ s, exec i s = .next ((s.setLrcSum (f s.lrcSum)).returning {})) := by
  cases i with
  | crcInit => exact .inr (.inl ⟨.inl rfl, fun _ => crcInitValue, fun _ => rfl⟩)
  | crcFeed b => exact .inr (.inl ⟨.inr ⟨b, rfl⟩, fun c => crcByte c b, fun _ => rfl⟩)
  | lrcInit => exact .inr (.inr ⟨.inl rfl, fun _ => 0x00#8, fun _ => rfl⟩)
  | lrcFeed b => exact .inr (.inr ⟨.inr ⟨b, rfl⟩, fun u => lrcAdd u b, fun _ => rfl⟩)
  | crcRead | crcCompute | crcValidate | lrcRead | lrcCompute | lrcValidate | encodeRtu _ | decodeRtu | encodeAscii _
  | decodeAscii | rtuToAscii | asciiToRtu => exact .inl rfl

/-- No command reads the Result of the step before: it is not state (R18). -/
theorem exec_of_other_result (i : Instr) (s : State) (x : Option Result) : exec i { s with result := x } = exec i s := by
  obtain hi | ⟨-, f, hf⟩ | ⟨-, f, hf⟩ := exec_kinds i
  · obtain ⟨r, hr⟩ := exec_of_writesNoRegister hi s
    have same : SameReads i s { s with result := x } := ⟨rfl, rfl, rfl, fun _ => rfl, fun _ => rfl⟩
    rw [exec_transfer hi same hr, hr]
    rfl
  · rw [hf, hf]
    rfl
  · rw [hf, hf]
    rfl

/-- No step reads the Result of the step before, whatever the host does. -/
theorem step_of_other_result (s : State) (x : Option Result) : step { s with result := x } = step s := by
  obtain ⟨crc, lrcSum, profile, params, issue, result⟩ := s
  cases issue with
  | nil => rfl
  | cons e rest =>
    cases e with
    | reset => rfl
    | command w input =>
      by_cases hl : input.length ≤ params.maxInLen
      · cases hd : decode w with
        | ok i =>
          exact (step_of_legal rfl hl hd).trans
            ((exec_of_other_result i ⟨_, _, _, _, _, result⟩ x).trans (step_of_legal rfl hl hd).symm)
        | error e => exact (step_of_illegal rfl hl hd).trans (step_of_illegal rfl hl hd).symm
      · rw [step_of_overlong rfl (Nat.not_le.mp hl), step_of_overlong rfl (Nat.not_le.mp hl)]

/-! No pseudocode raises STATUS 0. -/

theorem crcValidate_ne_error_ok (frame : Bytes) : crcValidate frame ≠ .error .ok := by
  unfold crcValidate
  split <;> nofun

theorem lrcValidate_ne_error_ok (frame : Bytes) : lrcValidate frame ≠ .error .ok := by
  unfold lrcValidate
  split <;> nofun

theorem rtuSplit_ne_error_ok (frame : Bytes) : rtuSplit frame ≠ .error .ok := by
  unfold rtuSplit
  split <;> nofun

theorem asciiSplit_ne_error_ok (lower : Bool) (frame : Bytes) : asciiSplit lower frame ≠ .error .ok := by
  unfold asciiSplit
  split
  · nofun
  split
  · nofun
  dsimp only
  split
  · nofun
  split <;> nofun

theorem rtuEncode_ne_error_ok (a : Byte) (pdu : Bytes) : rtuEncode a pdu ≠ .error .ok := by
  unfold rtuEncode
  split <;> nofun

theorem asciiEncode_ne_error_ok (a : Byte) (pdu : Bytes) : asciiEncode a pdu ≠ .error .ok := by
  unfold asciiEncode
  split <;> nofun

theorem reframeAsAscii_ne_error_ok (d : Result) : reframeAsAscii d ≠ .error .ok := by
  unfold reframeAsAscii
  split <;> nofun

theorem reframeAsRtu_ne_error_ok (d : Result) : reframeAsRtu d ≠ .error .ok := by
  unfold reframeAsRtu
  split <;> nofun

theorem bind_ne_error_ok {e : Except Status Result} {f : Result → Except Status Result} (he : e ≠ .error .ok)
    (hf : ∀ d, f d ≠ .error .ok) : e.bind f ≠ .error .ok := by
  cases e with
  | ok d => exact hf d
  | error c => exact he

/-! `CHK_OK` (R20). -/

/-- The rule of `CHK_OK` for one Result: in a command that compares a check field it is the comparison while STATUS is 0, and
otherwise it is false. -/
def Result.FlagRule (compares : Bool) (r : Result) : Prop :=
  r.chkOk = (compares && decide (r.status = .ok) && decide (r.rxCheck = r.calcCheck))

theorem errorResult_flagRule {c : Status} (h : c ≠ .ok) (compares : Bool) : (errorResult c).FlagRule compares := by
  simp [Result.FlagRule, errorResult, h]

theorem Result.flagRule_of_clear {r : Result} (h : r.chkOk = false) : r.FlagRule false := h

/-- The check fields are written together, so the flag agrees with them. -/
theorem Result.withCheck_flagRule {r : Result} (h : r.status = .ok) (rx computed : Half) :
    (r.withCheck rx computed).FlagRule true := by
  simp [Result.FlagRule, Result.withCheck, chkOkFlag, h]

/-- `e` raises no STATUS 0, and every Result it returns follows the rule of `CHK_OK`. -/
def Flagged (compares : Bool) (e : Except Status Result) : Prop :=
  e ≠ .error .ok ∧ ∀ r, e = .ok r → r.FlagRule compares

theorem crcValidate_flagged (frame : Bytes) : Flagged true (crcValidate frame) := by
  refine ⟨crcValidate_ne_error_ok frame, fun r h => ?_⟩
  obtain ⟨rx, computed, rfl⟩ := crcValidate_eq_ok h
  exact Result.withCheck_flagRule rfl rx computed

theorem lrcValidate_flagged (frame : Bytes) : Flagged true (lrcValidate frame) := by
  refine ⟨lrcValidate_ne_error_ok frame, fun r h => ?_⟩
  obtain ⟨rx, computed, rfl⟩ := lrcValidate_eq_ok h
  exact Result.withCheck_flagRule rfl rx computed

theorem rtuSplit_flagged (frame : Bytes) : Flagged true (rtuSplit frame) := by
  refine ⟨rtuSplit_ne_error_ok frame, fun r h => ?_⟩
  obtain ⟨a, pdu, rx, computed, rfl, -⟩ := rtuSplit_eq_ok h
  exact Result.withCheck_flagRule rfl rx computed

theorem asciiSplit_flagged (lower : Bool) (frame : Bytes) : Flagged true (asciiSplit lower frame) := by
  refine ⟨asciiSplit_ne_error_ok lower frame, fun r h => ?_⟩
  obtain ⟨a, pdu, rx, computed, rfl, -⟩ := asciiSplit_eq_ok h
  exact Result.withCheck_flagRule rfl rx computed

/-- Re-framing keeps the status and the check fields of the split, and with them the flag. -/
theorem reframeAsAscii_flagged {e : Except Status Result} (he : Flagged true e) : Flagged true (e.bind reframeAsAscii) := by
  refine ⟨bind_ne_error_ok he.1 reframeAsAscii_ne_error_ok, fun r h => ?_⟩
  obtain ⟨d, hd, hr⟩ := bind_eq_ok h
  obtain ⟨-, rfl⟩ := reframeAsAscii_eq_ok hr
  exact he.2 d hd

theorem reframeAsRtu_flagged {e : Except Status Result} (he : Flagged true e) : Flagged true (e.bind reframeAsRtu) := by
  refine ⟨bind_ne_error_ok he.1 reframeAsRtu_ne_error_ok, fun r h => ?_⟩
  obtain ⟨d, hd, hr⟩ := bind_eq_ok h
  obtain ⟨-, rfl⟩ := reframeAsRtu_eq_ok hr
  exact he.2 d hd

theorem rtuEncode_flagged (a : Byte) (pdu : Bytes) : Flagged false (rtuEncode a pdu) := by
  refine ⟨rtuEncode_ne_error_ok a pdu, fun r h => ?_⟩
  obtain ⟨-, rfl⟩ := rtuEncode_eq_ok h
  exact Result.flagRule_of_clear rfl

theorem asciiEncode_flagged (a : Byte) (pdu : Bytes) : Flagged false (asciiEncode a pdu) := by
  refine ⟨asciiEncode_ne_error_ok a pdu, fun r h => ?_⟩
  obtain ⟨-, rfl⟩ := asciiEncode_eq_ok h
  exact Result.flagRule_of_clear rfl

/-- The outcome is a next state whose Result follows the rule of `CHK_OK`. -/
def EndsFlagged (compares : Bool) (o : Host.Outcome State Fault Refusal) : Prop :=
  ∃ t r, o = .next t ∧ t.result = some r ∧ r.FlagRule compares

theorem complete_endsFlagged {compares : Bool} {r : Result} (h : r.FlagRule compares) (s : State) :
    EndsFlagged compares (complete r s) :=
  ⟨s.returning r, r, rfl, rfl, h⟩

theorem conclude_endsFlagged {compares : Bool} {e : Except Status Result} (h : Flagged compares e) (s : State) :
    EndsFlagged compares (conclude e s) := by
  obtain ⟨hne, hok⟩ := h
  cases e with
  | ok r => exact complete_endsFlagged (hok r rfl) s
  | error c => exact complete_endsFlagged (errorResult_flagRule (fun hc => hne (congrArg _ hc)) compares) s

theorem gated_endsFlagged {compares : Bool} {e : Except Status Result} (h : Flagged compares e) (p : Profile) (s : State) :
    EndsFlagged compares (gated p e s) := by
  by_cases hp : s.profile = p
  · rw [gated_of_profile hp]
    exact conclude_endsFlagged h s
  · rw [gated_of_other hp]
    exact complete_endsFlagged (errorResult_flagRule (by decide) compares) s

/-- Every command from every state returns a Result that follows the rule of `CHK_OK`. -/
theorem exec_endsFlagged (i : Instr) (s : State) : EndsFlagged (Claims.comparesCheck i) (exec i s) := by
  cases i with
  | crcInit | crcFeed _ | crcRead | crcCompute | lrcInit | lrcFeed _ | lrcRead | lrcCompute =>
    exact complete_endsFlagged (Result.flagRule_of_clear rfl) _
  | crcValidate => exact conclude_endsFlagged (crcValidate_flagged _) s
  | lrcValidate => exact conclude_endsFlagged (lrcValidate_flagged _) s
  | encodeRtu a => exact gated_endsFlagged (rtuEncode_flagged a _) .rtu s
  | decodeRtu => exact gated_endsFlagged (rtuSplit_flagged _) .rtu s
  | encodeAscii a => exact gated_endsFlagged (asciiEncode_flagged a _) .ascii s
  | decodeAscii => exact gated_endsFlagged (asciiSplit_flagged _ _) .ascii s
  | rtuToAscii => exact conclude_endsFlagged (reframeAsAscii_flagged (rtuSplit_flagged _)) s
  | asciiToRtu => exact conclude_endsFlagged (reframeAsRtu_flagged (asciiSplit_flagged _ _)) s

end Sys2Proof.Machine
end

section
/-! The statements about the block's state (spec/10_state.md), settled. -/

namespace Sys2Proof.Proofs

open Sys2Proof.Machine

/-- Settles O56. -/
theorem chkOkIsTheComparison : Obligations.ChkOkIsTheComparison := by
  intro i s
  obtain ⟨t, r, ht, hr, hflag⟩ := exec_endsFlagged i s
  exact ⟨t, r, ht, hr, fun x => (exec_of_other_result i s x).trans ht, hflag⟩

/-- Settles O57, by the three kinds of command. -/
theorem onlyStreamCommandsTouchRegisters : Obligations.OnlyStreamCommandsTouchRegisters := by
  intro i s
  obtain hi | ⟨hw, f, hf⟩ | ⟨hw, f, hf⟩ := exec_kinds i
  · obtain ⟨r, hr⟩ := exec_of_writesNoRegister hi s
    refine ⟨_, hr, fun h => absurd rfl h, fun h => absurd rfl h, fun c hc => ?_, fun x hx => ?_⟩
    · have same : SameReads i s { s with crc := c } := ⟨rfl, rfl, rfl, fun h => absurd h hc, fun _ => rfl⟩
      exact ⟨_, exec_transfer hi same hr, rfl, rfl⟩
    · have same : SameReads i s { s with lrcSum := x } := ⟨rfl, rfl, rfl, fun _ => rfl, fun h => absurd h hx⟩
      exact ⟨_, exec_transfer hi same hr, rfl, rfl⟩
  · exact ⟨_, hf s, fun _ => hw, fun h => absurd rfl h, fun c _ => ⟨_, hf _, rfl, rfl⟩, fun x _ => ⟨_, hf _, rfl, rfl⟩⟩
  · exact ⟨_, hf s, fun h => absurd rfl h, fun _ => hw, fun c _ => ⟨_, hf _, rfl, rfl⟩, fun x _ => ⟨_, hf _, rfl, rfl⟩⟩

/-- Settles O11. -/
theorem noStepReadsTheLastResult : Obligations.NoStepReadsTheLastResult := by
  intro s r
  exact step_of_other_result s r

end Sys2Proof.Proofs
end

section
/-! The facts the memory statements (spec/20_memory.md) need: that decoding undoes encoding, what a step takes from the host's
list of events, and what a command does when it is issued with other events behind it, or again. -/

namespace Sys2Proof

/-- The decoder reads back every command from its word (R35, R39). -/
theorem decode_encode (i : Instr) : decode (encode i) = .ok i := by
  obtain ⟨hop, himm⟩ := Laws.EncodedFields.any i
  rw [decode, hop, himm]
  cases i <;> rfl

end Sys2Proof

namespace Sys2Proof.Machine

/-- The statements name the commands that write a register, `writesNoRegister` the others. -/
theorem writesNoRegister_of_changesRegister_false {i : Instr} (h : Claims.changesRegister i = false) :
    writesNoRegister i = true := by
  obtain hi | ⟨rfl | ⟨b, rfl⟩, -⟩ | ⟨rfl | ⟨b, rfl⟩, -⟩ := exec_kinds i
  · exact hi
  all_goals cases h

/-! One event a step (R31). -/

theorem State.returning_of_issue {s : State} {e : HostEvent} {rest : List HostEvent} (h : s.issue = e :: rest) (r : Result) :
    s.returning r = { s with issue := rest, result := some r } := by
  simp [State.returning, h]

theorem State.hostOk_iff (s : State) : s.hostOk = true ↔ ∀ e ∈ s.issue, e.wf s.params = true := by
  simp [State.hostOk]

/-- A host that respects the capacity issues no overlong `IN` next. -/
theorem State.fits_of_hostOk {s : State} (h : s.hostOk = true) (w : CmdWord) (input : Bytes) (rest : List HostEvent)
    (hi : s.issue = .command w input :: rest) : input.length ≤ s.params.maxInLen := by
  have hw := s.hostOk_iff.mp h (.command w input) (by simp [hi])
  exact of_decide_eq_true hw

/-- No command stops the machine (R84). -/
theorem exec_answers (i : Instr) (s : State) : ∃ t, exec i s = .next t := by
  obtain ⟨c, u, r, hx⟩ := exec_shape i s
  exact ⟨_, hx⟩

theorem exec_issue {i : Instr} {s t : State} (h : exec i s = .next t) : t.issue = s.issue.tail := by
  obtain ⟨c, u, r, hx⟩ := exec_shape i s
  cases hx.symm.trans h
  rfl

/-- Every answering step takes exactly the event in front; an idle step finds none to take. -/
theorem step_issue {s t : State} (h : step s = .next t) : t.issue = s.issue.tail := by
  obtain ⟨hi, rfl⟩ | ⟨rest, -, rfl⟩ | ⟨w, input, rest, -, -, ⟨i, -, he⟩ | ⟨e, -, rfl⟩⟩ := step_next_cases h
  · simp [hi]
  · rfl
  · exact exec_issue he
  · rfl

/-- Where the next command's `IN` fits, or none is issued, the step answers (R25, R84). -/
theorem exists_step_of_fits {s : State}
    (h : ∀ w input rest, s.issue = .command w input :: rest → input.length ≤ s.params.maxInLen) : ∃ t, step s = .next t := by
  cases hi : s.issue with
  | nil => exact ⟨_, step_of_nothing hi⟩
  | cons e rest =>
    cases e with
    | reset => exact ⟨_, step_of_reset hi⟩
    | command w input =>
      have hl := h w input rest hi
      cases hd : decode w with
      | error e => exact ⟨_, step_of_illegal hi hl hd⟩
      | ok i =>
        obtain ⟨t, ht⟩ := exec_answers i s
        exact ⟨t, (step_of_legal hi hl hd).trans ht⟩

/-- A step leaves the host only events it could issue before, under the same capacity. -/
theorem step_hostOk {s t : State} (hs : s.hostOk = true) (h : step s = .next t) : t.hostOk = true := by
  obtain ⟨-, hparams⟩ := Proofs.noStepChangesConfiguration s t h
  rw [State.hostOk_iff, step_issue h, hparams]
  exact fun e he => s.hostOk_iff.mp hs e (List.mem_of_mem_tail he)

/-! A command among other events. -/

/-- A command reads of the host's events only its own `IN`: with the same `IN` in front of any other events it does the same. -/
theorem exec_of_other_issue {i : Instr} {s t : State} {issue : List HostEvent}
    (hin : s.input = { s with issue := issue }.input) (h : exec i s = .next t) :
    exec i { s with issue := issue } = .next { t with issue := issue.tail } := by
  obtain hi | ⟨-, f, hf⟩ | ⟨-, f, hf⟩ := exec_kinds i
  · obtain ⟨r, hr⟩ := exec_of_writesNoRegister hi s
    cases hr.symm.trans h
    exact exec_transfer hi ⟨hin, rfl, rfl, fun _ => rfl, fun _ => rfl⟩ hr
  · cases (hf s).symm.trans h
    exact hf _
  · cases (hf s).symm.trans h
    exact hf _

/-- A command other than a FEED, executed again with the same `IN`, finds its registers as it leaves them: only its event goes. -/
theorem exec_again {i : Instr} {s t : State} (hc : ∀ b, i ≠ .crcFeed b) (hl : ∀ b, i ≠ .lrcFeed b)
    (hin : s.input = t.input) (h : exec i s = .next t) : exec i t = .next { t with issue := t.issue.tail } := by
  obtain hi | ⟨rfl | ⟨b, rfl⟩, -⟩ | ⟨rfl | ⟨b, rfl⟩, -⟩ := exec_kinds i
  · obtain ⟨r, hr⟩ := exec_of_writesNoRegister hi s
    cases hr.symm.trans h
    exact exec_transfer hi ⟨hin, rfl, rfl, fun _ => rfl, fun _ => rfl⟩ hr
  · cases h
    rfl
  · exact absurd rfl (hc b)
  · cases h
    rfl
  · exact absurd rfl (hl b)

end Sys2Proof.Machine
end

section
/-! The statements about `IN`, byte order and the order of commands (spec/20_memory.md), settled. -/

namespace Sys2Proof.Proofs

open Sys2Proof.Machine

/-- Settles O5, by whether the next event is a command with an overlong `IN`. -/
theorem onlyOverlongInputHasNoStep : Obligations.OnlyOverlongInputHasNoStep := by
  intro s
  by_cases h : ∃ w input rest, s.issue = .command w input :: rest ∧ s.params.maxInLen < input.length
  · obtain ⟨w, input, rest, hi, hl⟩ := h
    exact .inl ⟨w, input, rest, hi, hl, step_of_overlong hi hl⟩
  · have fits : ∀ w input rest, s.issue = .command w input :: rest → input.length ≤ s.params.maxInLen :=
      fun w input rest hi => Nat.not_lt.mp fun hl => h ⟨w, input, rest, hi, hl⟩
    exact .inr ⟨fits, exists_step_of_fits fits⟩

/-- Settles O9, by induction on the number of steps. -/
theorem runsNeverStop : Obligations.RunsNeverStop := by
  intro k
  induction k with
  | zero => exact fun s hs => ⟨s, runSteps_zero s, rfl, hs⟩
  | succ k ih =>
    intro s hs
    obtain ⟨u, hu⟩ := exists_step_of_fits (State.fits_of_hostOk hs)
    obtain ⟨t, ht, hissue, hok⟩ := ih u (step_hostOk hs hu)
    refine ⟨t, (runSteps_succ hu k).trans ht, ?_, hok⟩
    rw [hissue, step_issue hu, List.drop_tail]

/-- Settles O10, by the cases of an answering step. -/
theorem laterEventsAreNotSeen : Obligations.LaterEventsAreNotSeen := by
  intro s t e rest other hi h
  obtain ⟨hn, -⟩ | ⟨_, hr, rfl⟩ | ⟨w, input, _, hw, hl, hcases⟩ := step_next_cases h
  · cases hi.symm.trans hn
  · cases hi.symm.trans hr
    exact step_of_reset rfl
  · cases hi.symm.trans hw
    obtain ⟨i, hd, he⟩ | ⟨err, hd, rfl⟩ := hcases
    · calc step { s with issue := .command w input :: other }
        _ = exec i { s with issue := .command w input :: other } := step_of_legal rfl hl hd
        _ = .next { t with issue := other } := exec_of_other_issue (State.input_of_issue hi) he
    · exact step_of_illegal rfl hl hd

/-- Settles O23. -/
theorem crcGoesLowByteFirst : Obligations.CrcGoesLowByteFirst := by
  refine ⟨fun c => ?_, crcOfWire_toNat, fun b0 b1 => ?_⟩
  · rw [← lowByte_toNat, ← highByte_toNat, BitVec.ofNat_toNat, BitVec.ofNat_toNat, BitVec.setWidth_eq, BitVec.setWidth_eq,
      crcWire]
  · rw [crcWire, lowByte_crcOfWire, highByte_crcOfWire]

/-- Settles O47. -/
theorem pureCommandsDependOnInputAlone : Obligations.PureCommandsDependOnInputAlone := by
  intro i s u hi hin hprof hlow hcrc hlrc
  have hw := writesNoRegister_of_changesRegister_false hi
  obtain ⟨r, hr⟩ := exec_of_writesNoRegister hw s
  exact ⟨r, hr, exec_transfer hw ⟨hin, hprof, hlow, hcrc, hlrc⟩ hr⟩

/-- Settles O53: the pure command leaves only its Result behind, which the next step does not read. -/
theorem pureCommandsInterleaveWithStreams : Obligations.PureCommandsInterleaveWithStreams := by
  intro s w input i rest h hl hd hi
  obtain ⟨r, hr⟩ := exec_of_writesNoRegister (writesNoRegister_of_changesRegister_false hi) s
  calc runSteps 2 s = runSteps 1 (s.returning r) := runSteps_succ ((step_of_legal h hl hd).trans hr) 1
    _ = step { s with issue := rest, result := some r } := by rw [runSteps_one, State.returning_of_issue h]
    _ = step { s with issue := rest } := step_of_other_result { s with issue := rest } (some r)

/-- Settles O58. -/
theorem repeatingACommandChangesNothing : Obligations.RepeatingACommandChangesNothing := by
  intro s w input i rest h hl hd hcrc hlrc
  obtain ⟨t, ht⟩ := exec_answers i s
  have hissue : t.issue = .command w input :: rest := by rw [exec_issue ht, h, List.tail_cons]
  have hin : s.input = t.input := by rw [State.input_of_issue h, State.input_of_issue hissue]
  obtain ⟨-, hparams⟩ := exec_keeps_configuration ht
  refine ⟨t, (step_of_legal h hl hd).trans ht, ?_⟩
  rw [step_of_legal hissue (hparams ▸ hl) hd, exec_again hcrc hlrc hin ht, hissue, List.tail_cons]

/-- Settles O4: the second clause is the first for the word of `i`, which decodes to `i`. -/
theorem stepRunsTheIssuedCommand : Obligations.StepRunsTheIssuedCommand := by
  refine ⟨fun s w input rest i => step_of_legal, fun s i => ?_⟩
  have hword : BitVec.ofNat 16 ((encode i).toNat % 2 ^ 16) = encode i := by
    rw [Nat.mod_eq_of_lt (encode i).isLt, BitVec.ofNat_toNat, BitVec.setWidth_eq]
  rw [State.withFetchWord, hword]
  exact step_of_legal rfl (Nat.zero_le _) (decode_encode i)

/-- Settles O59: the next state of each of the six takes the event away and does not look into it. -/
theorem streamCommandsIgnoreInput : Obligations.StreamCommandsIgnoreInput := by
  intro i s t w x y rest hi h
  simp only [List.mem_cons, List.not_mem_nil, or_false] at hi
  obtain (rfl | rfl | rfl | rfl) | ⟨b, rfl | rfl⟩ := hi
  all_goals exact h

end Sys2Proof.Proofs
end

section
/-! The facts the encoding statements (spec/30_encoding.md) need: what the decoder accepts, hex digits, addresses, streams, and the
assembler's reading of what it writes. -/

namespace Sys2Proof

/-! The decoder against the encoder and the opcode table (R34, R35, R37). -/

/-- The opcode map and the fields of a command's word are inverse to each other. -/
theorem decodeFields_eq_ok {op imm : Byte} {i : Instr} :
    decodeFields op imm = .ok i ↔ op = i.opcode ∧ imm = i.operand := by
  constructor
  · intro h
    have code {n : Nat} (hn : op.toNat = n) : op = BitVec.ofNat 8 n := by
      rw [← hn, BitVec.ofNat_toNat, BitVec.setWidth_eq]
    unfold decodeFields at h
    split at h
    case h_2 hn | h_7 hn | h_11 hn | h_13 hn =>
      cases h
      exact ⟨code hn, rfl⟩
    case h_17 => cases h
    all_goals
      obtain ⟨himm, rfl⟩ := withoutOperand_eq_ok.mp h
      exact ⟨code ‹_›, himm⟩
  · rintro ⟨rfl, rfl⟩
    cases i <;> rfl

theorem decode_eq_ok {w : CmdWord} {i : Instr} :
    decode w = .ok i ↔ opField w = i.opcode ∧ immField w = i.operand := decodeFields_eq_ok

theorem encode_of_decode {w : CmdWord} {i : Instr} (h : decode w = .ok i) : encode i = w := by
  obtain ⟨hop, himm⟩ := decode_eq_ok.mp h
  rw [encode, ← hop, ← himm, cmdWord_fields]

/-- Whether a command's `IMM8` is an operand (R34); if not it must be 0x00 (R37). -/
def Instr.takesOperand : Instr → Bool
  | .crcFeed _ | .lrcFeed _ | .encodeRtu _ | .encodeAscii _ => true
  | .crcInit | .crcRead | .crcCompute | .crcValidate | .lrcInit | .lrcRead | .lrcCompute | .lrcValidate
  | .decodeRtu | .decodeAscii | .rtuToAscii | .asciiToRtu => false

/-- The row of the opcode table a command belongs to (R35). -/
def Instr.opcodeRow (i : Instr) : OpcodeRow :=
  ⟨i.mnemonic, if i.takesOperand then 0xFF00#16 else 0xFFFF#16, cmdWord i.opcode 0x00#8⟩

theorem Instr.opcodeRow_mem (i : Instr) : i.opcodeRow ∈ opcodeTable := by
  cases i with
  | crcFeed _ => exact show (Instr.crcFeed 0).opcodeRow ∈ opcodeTable by decide
  | lrcFeed _ => exact show (Instr.lrcFeed 0).opcodeRow ∈ opcodeTable by decide
  | encodeRtu _ => exact show (Instr.encodeRtu 0).opcodeRow ∈ opcodeTable by decide
  | encodeAscii _ => exact show (Instr.encodeAscii 0).opcodeRow ∈ opcodeTable by decide
  | crcInit | crcRead | crcCompute | crcValidate | lrcInit | lrcRead | lrcCompute | lrcValidate
  | decodeRtu | decodeAscii | rtuToAscii | asciiToRtu => decide

theorem exists_opcodeRow {row : OpcodeRow} (h : row ∈ opcodeTable) : ∃ i : Instr, row = i.opcodeRow := by
  revert row
  simp only [opcodeTable, List.cons_append, List.nil_append, List.forall_mem_cons]
  exact ⟨⟨.crcInit, rfl⟩, ⟨.crcFeed 0, rfl⟩, ⟨.crcRead, rfl⟩, ⟨.crcCompute, rfl⟩, ⟨.crcValidate, rfl⟩, ⟨.lrcInit, rfl⟩,
    ⟨.lrcFeed 0, rfl⟩, ⟨.lrcRead, rfl⟩, ⟨.lrcCompute, rfl⟩, ⟨.lrcValidate, rfl⟩, ⟨.encodeRtu 0, rfl⟩, ⟨.decodeRtu, rfl⟩,
    ⟨.encodeAscii 0, rfl⟩, ⟨.decodeAscii, rfl⟩, ⟨.rtuToAscii, rfl⟩, ⟨.asciiToRtu, rfl⟩, by simp⟩

theorem opcodeTable_mnemonics_nodup : (opcodeTable.map OpcodeRow.mnemonic).Nodup := by decide +kernel

/-- No two commands of different rows share a mnemonic. -/
theorem opcodeRow_eq_of_mnemonic_eq {i j : Instr} (h : i.mnemonic = j.mnemonic) : i.opcodeRow = j.opcodeRow :=
  List.inj_on_of_nodup_map opcodeTable_mnemonics_nodup i.opcodeRow_mem j.opcodeRow_mem h

/-- The wide mask keeps `OP` and clears `IMM8`. -/
theorem and_FF00_eq (w : CmdWord) : w &&& 0xFF00#16 = cmdWord (opField w) 0x00#8 := by
  ext k hk
  interval_cases k <;> simp [cmdWord, opField]

theorem and_FF00_eq_cmdWord_iff (w : CmdWord) (op : Byte) : w &&& 0xFF00#16 = cmdWord op 0x00#8 ↔ opField w = op := by
  constructor
  · intro h
    rw [← opField_cmdWord op 0x00#8, ← h, and_FF00_eq, opField_cmdWord]
  · rintro rfl
    exact and_FF00_eq w

theorem and_FFFF_eq_cmdWord_iff (w : CmdWord) (op imm : Byte) :
    w &&& 0xFFFF#16 = cmdWord op imm ↔ opField w = op ∧ immField w = imm := by
  constructor
  · intro h
    have hw : w = cmdWord op imm := by rw [← h]; exact (BitVec.and_allOnes (x := w)).symm
    rw [hw, opField_cmdWord, immField_cmdWord]
    exact ⟨rfl, rfl⟩
  · rintro ⟨rfl, rfl⟩
    rw [cmdWord_fields]
    exact BitVec.and_allOnes

/-- A word matches the row of a command exactly when it has its opcode and, where `IMM8` is no operand, 0x00 there (R37). -/
theorem and_mask_eq_pattern_iff (w : CmdWord) (i : Instr) :
    w &&& i.opcodeRow.mask = i.opcodeRow.pattern ↔
      opField w = i.opcode ∧ (i.takesOperand = false → immField w = 0x00#8) := by
  cases h : i.takesOperand with
  | true => simpa [Instr.opcodeRow, h] using and_FF00_eq_cmdWord_iff w i.opcode
  | false => simpa [Instr.opcodeRow, h] using and_FFFF_eq_cmdWord_iff w i.opcode 0x00#8

theorem operand_of_takesOperand_false {i : Instr} (h : i.takesOperand = false) : i.operand = 0x00#8 := by
  cases i with
  | crcFeed _ | lrcFeed _ | encodeRtu _ | encodeAscii _ => cases h
  | crcInit | crcRead | crcCompute | crcValidate | lrcInit | lrcRead | lrcCompute | lrcValidate
  | decodeRtu | decodeAscii | rtuToAscii | asciiToRtu => rfl

/-- Every `IMM8` allowed beside the opcode of a command is the operand of a command in the same row. -/
theorem exists_instr_of_operand (i : Instr) (imm : Byte) (h : i.takesOperand = false → imm = 0x00#8) :
    ∃ j : Instr, j.opcodeRow = i.opcodeRow ∧ j.opcode = i.opcode ∧ j.operand = imm := by
  cases i with
  | crcFeed _ => exact ⟨.crcFeed imm, rfl, rfl, rfl⟩
  | lrcFeed _ => exact ⟨.lrcFeed imm, rfl, rfl, rfl⟩
  | encodeRtu _ => exact ⟨.encodeRtu imm, rfl, rfl, rfl⟩
  | encodeAscii _ => exact ⟨.encodeAscii imm, rfl, rfl, rfl⟩
  | crcInit | crcRead | crcCompute | crcValidate | lrcInit | lrcRead | lrcCompute | lrcValidate
  | decodeRtu | decodeAscii | rtuToAscii | asciiToRtu => exact ⟨_, rfl, rfl, (h rfl).symm⟩

/-- The table and the decoder agree: a word matches the row of `i` exactly when it decodes to a command of that row. -/
theorem and_mask_eq_pattern_iff_decode (w : CmdWord) (i : Instr) :
    w &&& i.opcodeRow.mask = i.opcodeRow.pattern ↔ ∃ j, decode w = .ok j ∧ j.opcodeRow = i.opcodeRow := by
  constructor
  · intro h
    obtain ⟨hop, himm⟩ := (and_mask_eq_pattern_iff w i).mp h
    obtain ⟨j, hrow, hj, hoperand⟩ := exists_instr_of_operand i (immField w) himm
    exact ⟨j, decode_eq_ok.mpr ⟨hop.trans hj.symm, hoperand.symm⟩, hrow⟩
  · rintro ⟨j, hd, hrow⟩
    obtain ⟨hop, himm⟩ := decode_eq_ok.mp hd
    rw [← hrow]
    exact (and_mask_eq_pattern_iff w j).mpr ⟨hop, fun h => himm.trans (operand_of_takesOperand_false h)⟩

theorem operand_toNat_of_decode {w : CmdWord} {i : Instr} (h : decode w = .ok i) : i.operand.toNat = w.toNat % 256 := by
  rw [← (decode_eq_ok.mp h).2, immField_toNat]

/-! Illegal words (R37, R38). -/

theorem not_isReservedOp_opcode (i : Instr) : ¬ Claims.isReservedOp i.opcode.toNat := by
  cases i <;> simp [Claims.isReservedOp, Instr.opcode]

theorem operand_of_operandFree {i : Instr} (h : i.opcode.toNat ∈ Claims.operandFreeOps) : i.operand = 0x00#8 := by
  cases i with
  | crcFeed _ | lrcFeed _ | encodeRtu _ | encodeAscii _ => simp [Claims.operandFreeOps, Instr.opcode] at h
  | crcInit | crcRead | crcCompute | crcValidate | lrcInit | lrcRead | lrcCompute | lrcValidate
  | decodeRtu | decodeAscii | rtuToAscii | asciiToRtu => rfl

theorem opcode_toNat_of_decode {w : CmdWord} {i : Instr} (h : decode w = .ok i) : i.opcode.toNat = w.toNat / 256 := by
  rw [← (decode_eq_ok.mp h).1, opField_toNat]

end Sys2Proof

namespace Sys2Proof.Machine

/-! Illegal words and the profile gate in a step (R36, R37, R38). -/

/-- A word that is no command's ends with ILLEGAL_CMD, every other Result field at its default (R37, R38, R81). -/
theorem step_of_no_command {s : State} {w : CmdWord} {input : Bytes} {rest : List HostEvent}
    (h : s.issue = .command w input :: rest) (hl : input.length ≤ s.params.maxInLen) (hn : ∀ i, decode w ≠ .ok i) :
    step s = .next { s with issue := rest, result := some (Claims.failed .illegalCmd) } := by
  cases hd : decode w with
  | ok i => exact absurd hd (hn i)
  | error e =>
    rw [step_of_illegal h hl hd, State.returning_of_issue h]
    rfl

/-- No other command than the four of R36 reads PROFILE. -/
theorem exec_of_other_profile {i : Instr} {s t : State} {p : Profile} (hi : Claims.neededProfile i = none)
    (h : exec i s = .next t) : exec i { s with profile := p } = .next { t with profile := p } := by
  obtain hw | ⟨-, f, hf⟩ | ⟨-, f, hf⟩ := exec_kinds i
  · obtain ⟨r, hr⟩ := exec_of_writesNoRegister hw s
    cases hr.symm.trans h
    cases i with
    | crcInit | crcFeed _ | lrcInit | lrcFeed _ => cases hw
    | encodeRtu _ | decodeRtu | encodeAscii _ | decodeAscii => cases hi
    | crcRead => exact conclude_transfer (e := .ok (crcResult s.crc)) hr
    | crcCompute => exact conclude_transfer (e := .ok (crcResult (crc16 s.input))) hr
    | lrcRead => exact conclude_transfer (e := .ok (lrcResult (lrcOfSum s.lrcSum))) hr
    | lrcCompute => exact conclude_transfer (e := .ok (lrcResult (lrc8 s.input))) hr
    | crcValidate | lrcValidate | rtuToAscii | asciiToRtu => exact conclude_transfer hr
  · cases (hf s).symm.trans h
    exact hf _
  · cases (hf s).symm.trans h
    exact hf _

theorem answers_of_other_profile {i : Instr} {s : State} {p : Profile} (hi : Claims.neededProfile i = some p)
    (h : s.profile ≠ p) : Claims.answers i s (Claims.failed .profileMismatch) := by
  cases i with
  | encodeRtu _ | decodeRtu | encodeAscii _ | decodeAscii =>
    cases hi
    exact gated_of_other h _
  | crcInit | crcFeed _ | crcRead | crcCompute | crcValidate | lrcInit | lrcFeed _ | lrcRead | lrcCompute | lrcValidate
  | rtuToAscii | asciiToRtu => cases hi

/-! Hex digits (R43, R44). -/

theorem hexDig_eq_upperDigit : ∀ n : BitVec 4, some (hexDig n) = Claims.upperDigits[n.toNat]? := by decide

theorem highNibble_toNat (b : Byte) : (b.extractLsb' 4 4).toNat = b.toNat / 16 := by
  have := b.isLt
  simp [Nat.shiftRight_eq_div_pow]
  omega

theorem lowNibble_toNat (b : Byte) : (b.extractLsb' 0 4).toNat = b.toNat % 16 := by
  simp

/-- The two characters of byte `k` stand at `2k` and `2k + 1`, the high nibble first (R28, R43). -/
theorem hexEnc_getElem? (s : Bytes) : ∀ k, k < s.length →
    (hexEnc s)[2 * k]? = Claims.upperDigits[(s.getD k 0).toNat / 16]? ∧
      (hexEnc s)[2 * k + 1]? = Claims.upperDigits[(s.getD k 0).toNat % 16]? := by
  induction s with
  | nil => exact fun k hk => absurd hk (Nat.not_lt_zero k)
  | cons b s ih =>
    intro k hk
    cases k with
    | zero =>
      rw [List.getD_cons_zero, ← highNibble_toNat, ← lowNibble_toNat, ← hexDig_eq_upperDigit, ← hexDig_eq_upperDigit]
      exact ⟨rfl, rfl⟩
    | succ k => exact ih k (Nat.lt_of_succ_lt_succ hk)

/-- The value of each character, by the three ranges of R44. -/
theorem hexVal_eq_some (lower : Bool) (ch : Byte) (v : Nat) : hexVal lower ch = some v ↔
    (0x30 ≤ ch.toNat ∧ ch.toNat ≤ 0x39 ∧ v = ch.toNat - 0x30) ∨
    (0x41 ≤ ch.toNat ∧ ch.toNat ≤ 0x46 ∧ v = ch.toNat - 0x41 + 10) ∨
    (lower = true ∧ 0x61 ≤ ch.toNat ∧ ch.toNat ≤ 0x66 ∧ v = ch.toNat - 0x61 + 10) := by
  dsimp only [hexVal]
  split_ifs with hdigit hupper hlower
  · rw [Option.some.injEq]
    omega
  · rw [Option.some.injEq]
    omega
  · rw [Option.some.injEq, eq_true hlower.1, true_and]
    omega
  · refine ⟨nofun, ?_⟩
    rintro (⟨h1, h2, -⟩ | ⟨h1, h2, -⟩ | ⟨hl, h1, h2, -⟩)
    · exact absurd ⟨h1, h2⟩ hdigit
    · exact absurd ⟨h1, h2⟩ hupper
    · exact absurd ⟨hl, h1, h2⟩ hlower

theorem hexVal_lt {lower : Bool} {ch : Byte} {v : Nat} (h : hexVal lower ch = some v) : v < 16 := by
  obtain h | h | h := (hexVal_eq_some lower ch v).mp h <;> omega

/-- HEXDEC of a text of two characters and more is defined by its first two characters and the rest (R44). -/
theorem hexDec_cons_cons_eq_some {lower : Bool} {hi lo : Byte} {t r : Bytes} :
    hexDec lower (hi :: lo :: t) = some r ↔
      ∃ h l q, hexVal lower hi = some h ∧ hexVal lower lo = some l ∧ hexDec lower t = some q ∧
        r = BitVec.ofNat 8 (h * 16 + l) :: q := by
  rw [hexDec]
  split
  next h l q hh hl hq => simp [hh, hl, hq, eq_comm]
  next hinvalid =>
    refine ⟨nofun, ?_⟩
    rintro ⟨h, l, q, hh, hl, hq, -⟩
    exact (hinvalid h l q hh hl hq).elim

/-- The same for the statements' description of HEXDEC. -/
theorem hexText_cons_cons {lower : Bool} {hi lo b : Byte} {t q : Bytes} :
    Claims.hexText lower (hi :: lo :: t) (b :: q) ↔
      (∃ h l, hexVal lower hi = some h ∧ hexVal lower lo = some l ∧ b.toNat = 16 * h + l) ∧ Claims.hexText lower t q := by
  constructor
  · rintro ⟨hlen, hall⟩
    refine ⟨hall 0 (Nat.succ_pos _), ?_, fun k hk => hall (k + 1) (Nat.succ_lt_succ hk)⟩
    simp only [List.length_cons] at hlen
    omega
  · rintro ⟨hfirst, hlen, hall⟩
    refine ⟨?_, fun k hk => ?_⟩
    · simp only [List.length_cons]
      omega
    · cases k with
      | zero => exact hfirst
      | succ k => exact hall k (Nat.lt_of_succ_lt_succ hk)

theorem hexText_nil {lower : Bool} {r : Bytes} : Claims.hexText lower [] r ↔ r = [] := by
  constructor
  · rintro ⟨hlen, -⟩
    exact List.length_eq_zero_iff.mp (by simpa using hlen.symm)
  · rintro rfl
    exact ⟨rfl, fun k hk => absurd hk (Nat.not_lt_zero k)⟩

theorem hexDec_eq_some_iff {lower : Bool} : ∀ {t r : Bytes}, hexDec lower t = some r ↔ Claims.hexText lower t r
  | [], r => by rw [hexText_nil, hexDec, Option.some.injEq, eq_comm]
  | [_], r => by
    refine ⟨nofun, ?_⟩
    rintro ⟨hlen, -⟩
    simp only [List.length_singleton] at hlen
    omega
  | hi :: lo :: t, r => by
    rw [hexDec_cons_cons_eq_some]
    constructor
    · rintro ⟨h, l, q, hh, hl, hq, rfl⟩
      have := hexVal_lt hh
      have := hexVal_lt hl
      refine hexText_cons_cons.mpr ⟨⟨h, l, hh, hl, ?_⟩, hexDec_eq_some_iff.mp hq⟩
      rw [BitVec.toNat_ofNat]
      omega
    · intro ht
      cases r with
      | nil => exact absurd ht.1 (by simp)
      | cons b q =>
        obtain ⟨⟨h, l, hh, hl, hb⟩, hq⟩ := hexText_cons_cons.mp ht
        refine ⟨h, l, q, hh, hl, hexDec_eq_some_iff.mpr hq, ?_⟩
        rw [Nat.mul_comm, ← hb, BitVec.ofNat_toNat, BitVec.setWidth_eq]

/-! Addresses (R47, R21). -/

theorem addrClassOf_code (a : Byte) :
    (addrClassOf a).code = if a.toNat = 0 then 1 else if a.toNat ≤ 247 then 2 else 3 := by
  by_cases h0 : a.toNat = 0
  · rw [addrClassOf, broadcastAddr, if_pos h0, if_pos h0]
    rfl
  rw [addrClassOf, broadcastAddr, if_neg h0, if_neg h0, unicastMin, unicastMax]
  by_cases h : a.toNat ≤ 247
  · rw [if_pos ⟨Nat.one_le_iff_ne_zero.mpr h0, h⟩, if_pos h]
    rfl
  · rw [if_neg fun hu => h hu.2, if_neg h]
    rfl

/-- A frame of an address and at least three bytes splits as RTU, and the PDU is the rest without the CRC (R69). -/
theorem rtuSplit_cons {a : Byte} {rest : Bytes} (h : 3 ≤ rest.length) :
    ∃ pdu rx computed, rtuSplit (a :: rest) = .ok (decodedResult a pdu rx computed) ∧ pdu.length + 2 = rest.length := by
  obtain ⟨b, mid, tail, rfl, htail⟩ := exists_parts h
  obtain ⟨b0, b1, rfl⟩ := List.length_eq_two.mp htail
  refine ⟨[b] ++ mid, crcOfWire b0 b1, _, rtuSplit_of_parts a (List.cons_ne_nil b mid) b0 b1, ?_⟩
  simp

/-- The hex text of an address and at least three bytes splits as ASCII, and the PDU is the rest without the LRC (R71). -/
theorem asciiSplit_of_hexText {lower : Bool} {a : Byte} {t rest : Bytes} (h : 3 ≤ rest.length)
    (ht : Claims.hexText lower t (a :: rest)) :
    ∃ pdu rx computed, asciiSplit lower ([charColon] ++ t ++ [charCR, charLF]) = .ok (decodedResult a pdu rx computed) ∧
      pdu.length + 1 = rest.length := by
  have hlen : t.length = 2 * (rest.length + 1) := ht.1
  obtain ⟨pdu, l, rfl⟩ : ∃ pdu l, rest = pdu ++ [l] :=
    ⟨_, _, (List.dropLast_append_getLast (List.ne_nil_of_length_pos (by omega))).symm⟩
  refine ⟨pdu, l.setWidth 16, (lrc8 ([a] ++ pdu)).setWidth 16, ?_, by simp⟩
  rw [asciiSplit_of_text lower (by omega), if_neg (by omega), hexDec_eq_some_iff.mpr ht]
  exact congrArg Except.ok (asciiFields_of_parts a pdu l)

theorem encodeRtu_answers {s : State} (a : Byte) (hp : s.profile = .rtu) (h1 : 1 ≤ s.input.length)
    (h2 : s.input.length ≤ 253) :
    Claims.answers (.encodeRtu a) s { value := crc16 ([a] ++ s.input), out := rtuFrame a s.input } := by
  rw [Claims.answers, exec, execEncodeRtu, gated_of_profile hp, rtuEncode, if_pos ((pduLengthOk_iff _).mpr ⟨h1, h2⟩)]
  rfl

theorem encodeAscii_answers {s : State} (a : Byte) (hp : s.profile = .ascii) (h1 : 1 ≤ s.input.length)
    (h2 : s.input.length ≤ 253) :
    Claims.answers (.encodeAscii a) s { value := (lrc8 ([a] ++ s.input)).setWidth 16, out := asciiFrame a s.input } := by
  rw [Claims.answers, exec, execEncodeAscii, gated_of_profile hp, asciiEncode, if_pos ((pduLengthOk_iff _).mpr ⟨h1, h2⟩)]
  rfl

theorem decodeRtu_answers {s : State} {r : Result} (hp : s.profile = .rtu) (h : rtuSplit s.input = .ok r) :
    Claims.answers .decodeRtu s r := by
  rw [Claims.answers, exec, execDecodeRtu, gated_of_profile hp, h]
  rfl

theorem decodeAscii_answers {s : State} {r : Result} (hp : s.profile = .ascii)
    (h : asciiSplit s.params.asciiAcceptLowercase s.input = .ok r) : Claims.answers .decodeAscii s r := by
  rw [Claims.answers, exec, execDecodeAscii, gated_of_profile hp, h]
  rfl

theorem rtuToAscii_answers {s : State} {d : Result} (h : rtuSplit s.input = .ok d) (hl : d.out.length ≤ 253) :
    Claims.answers .rtuToAscii s
      { d with value := (lrc8 ([d.addr] ++ d.out)).setWidth 16, out := asciiFrame d.addr d.out } := by
  rw [Claims.answers, exec, execRtuToAscii, h, Except.bind, reframeAsAscii, pduMax_eq, if_neg (Nat.not_lt.mpr hl)]
  rfl

theorem asciiToRtu_answers {s : State} {d : Result} (h : asciiSplit s.params.asciiAcceptLowercase s.input = .ok d)
    (hl : d.out.length ≤ 253) :
    Claims.answers .asciiToRtu s { d with value := crc16 ([d.addr] ++ d.out), out := rtuFrame d.addr d.out } := by
  rw [Claims.answers, exec, execAsciiToRtu, h, Except.bind, reframeAsRtu, pduMax_eq, if_neg (Nat.not_lt.mpr hl)]
  rfl

/-! Streams of commands without `IN` (R50, R65, R66). -/

/-- A command issued without `IN` is executed by the next step. -/
theorem step_of_issued {s : State} {i : Instr} {rest : List HostEvent} (h : s.issue = issueOf [] i :: rest) :
    step s = exec i s := step_of_legal h (Nat.zero_le _) (decode_encode i)

/-- A stream after its start, for the states `mk v issue x` that differ in the stream's register `v` and the host interface:
the fed bytes run through the register, and the READ command answers from what is there. -/
theorem runSteps_feeds_read {α : Type} {mk : α → List HostEvent → Option Result → State} {feed : Byte → Instr}
    {read : Instr} {next : α → Byte → α} {answer : α → Result} (hissue : ∀ v issue x, (mk v issue x).issue = issue)
    (hfeed : ∀ v e rest x b, exec (feed b) (mk v (e :: rest) x) = .next (mk (next v b) rest (some {})))
    (hread : ∀ v e rest x, exec read (mk v (e :: rest) x) = .next (mk v rest (some (answer v)))) (bytes : Bytes) :
    ∀ v x, runSteps (bytes.length + 1) (mk v ((bytes.map feed ++ [read]).map (issueOf [])) x)
      = .next (mk (bytes.foldl next v) [] (some (answer (bytes.foldl next v)))) := by
  induction bytes with
  | nil =>
    intro v x
    exact (runSteps_one _).trans ((step_of_issued (hissue v _ x)).trans (hread v _ _ x))
  | cons b bytes ih =>
    intro v x
    exact (runSteps_succ ((step_of_issued (hissue v _ x)).trans (hfeed v _ _ x b)) _).trans (ih (next v b) (some {}))

theorem runSteps_crcFeeds_read {s : State} {bytes : Bytes}
    (h : s.issue = (bytes.map Instr.crcFeed ++ [Instr.crcRead]).map (issueOf [])) :
    runSteps (bytes.length + 1) s = .next { s with
      crc := bytes.foldl crcByte s.crc, issue := [], result := some (crcResult (bytes.foldl crcByte s.crc)) } := by
  have hrun := runSteps_feeds_read (mk := fun c issue x => { s with crc := c, issue := issue, result := x })
    (feed := .crcFeed) (read := .crcRead) (next := crcByte) (answer := crcResult) (fun _ _ _ => rfl)
    (fun _ _ _ _ _ => rfl) (fun _ _ _ _ => rfl) bytes s.crc s.result
  rwa [← h] at hrun

theorem runSteps_lrcFeeds_read {s : State} {bytes : Bytes}
    (h : s.issue = (bytes.map Instr.lrcFeed ++ [Instr.lrcRead]).map (issueOf [])) :
    runSteps (bytes.length + 1) s = .next { s with
      lrcSum := bytes.foldl lrcAdd s.lrcSum, issue := [],
      result := some (lrcResult (lrcOfSum (bytes.foldl lrcAdd s.lrcSum))) } := by
  have hrun := runSteps_feeds_read (mk := fun u issue x => { s with lrcSum := u, issue := issue, result := x })
    (feed := .lrcFeed) (read := .lrcRead) (next := lrcAdd) (answer := fun u => lrcResult (lrcOfSum u)) (fun _ _ _ => rfl)
    (fun _ _ _ _ _ => rfl) (fun _ _ _ _ => rfl) bytes s.lrcSum s.result
  rwa [← h] at hrun

/-- The running sum of R61 is the byte sum of R53, mod 256. -/
theorem foldl_lrcAdd (x : Byte) (s : Bytes) : s.foldl lrcAdd x = x + BitVec.ofNat 8 (byteSum s) := by
  induction s generalizing x with
  | nil => simp
  | cons b s ih => rw [List.foldl_cons, ih, lrcAdd_eq, byteSum_cons, BitVec.ofNat_add, BitVec.ofNat_toNat,
      BitVec.setWidth_eq, BitVec.add_assoc]

/-- From 0x00 the running sum is the one LRC8 negates. -/
theorem foldl_lrcAdd_zero (s : Bytes) : s.foldl lrcAdd 0x00#8 = BitVec.ofNat 8 (byteSum s % 256) := by
  rw [foldl_lrcAdd, BitVec.zero_add]
  exact BitVec.eq_of_toNat_eq (by simp)

/-! Reading back what the assembler writes (R49). -/

theorem skipSpaces_of_ne {c : Char} (h : c ≠ ' ') (text : List Char) : skipSpaces (c :: text) = c :: text := if_neg h

theorem sourceHexDigit_sourceDigit : ∀ n, n < 16 → sourceHexDigit (sourceDigit n) = some n := by decide

theorem sourceDigit_ne : ∀ n, n < 16 → sourceDigit n ≠ ' ' ∧ sourceDigit n ≠ ']' := by decide

theorem sourceByte_showByte (b : Byte) :
    sourceByte (sourceDigit (b.toNat / 16)) (sourceDigit (b.toNat % 16)) = some b := by
  have hb := b.isLt
  rw [sourceByte, sourceHexDigit_sourceDigit _ (by omega), sourceHexDigit_sourceDigit _ (by omega)]
  simp [Nat.div_add_mod']

theorem parseHexList_space (text : List Char) : parseHexList (' ' :: text) = parseHexList text := by
  rw [parseHexList]

/-- Two digits and a space are one byte of a list. -/
theorem parseHexList_showByte (b : Byte) (text : List Char) {bytes : Bytes} {after : List Char}
    (h : parseHexList text = some (bytes, after)) :
    parseHexList (showByte b ++ [' '] ++ text) = some (b :: bytes, after) := by
  have hb := b.isLt
  obtain ⟨hspace, hbracket⟩ := sourceDigit_ne (b.toNat / 16) (by omega)
  change parseHexList (sourceDigit (b.toNat / 16) :: sourceDigit (b.toNat % 16) :: ' ' :: text) = _
  rw [parseHexList, sourceByte_showByte, parseHexList_space, h]
  · rfl
  all_goals simp [hspace, hbracket]

theorem parseHexList_showHexTail (bytes : Bytes) : parseHexList (showHexTail bytes) = some (bytes, []) := by
  induction bytes with
  | nil => rfl
  | cons b bytes ih => exact parseHexList_showByte b _ ih

theorem parseIn_of_hexList {text : List Char} {bytes : Bytes} (h : parseHexList text = some (bytes, [])) :
    parseIn ('I' :: 'N' :: ' ' :: '=' :: ' ' :: '[' :: text) = some bytes := by
  simp [parseIn, skipSpaces, parseBytes, h]

theorem parseIn_showIn (input : Bytes) : parseIn (showIn input) = some input :=
  parseIn_of_hexList ((parseHexList_space _).trans (parseHexList_showHexTail input))

theorem parseWithoutImm8_showIn (input : Bytes) : parseWithoutImm8 (' ' :: showIn input) = some input :=
  parseIn_showIn input

/-- An operand written in hex, with nothing but an operand's end after it. -/
theorem parseImm8_showByte (b : Byte) {text : List Char} (h : atOperandEnd text = true) :
    parseImm8 (['0', 'x'] ++ showByte b ++ text) = some (b, text) := by
  simp [parseImm8, showByte, sourceByte_showByte, h]

theorem parseWithImm8_of_parts {text rest : List Char} {imm : Byte} {bytes : Bytes}
    (himm : parseImm8 (skipSpaces text) = some (imm, rest)) (hin : parseInTail rest = some bytes) :
    parseWithImm8 text = some (imm, bytes) := by
  simp [parseWithImm8, himm, hin]

theorem parseWithImm8_showIn (b : Byte) (input : Bytes) :
    parseWithImm8 (' ' :: (['0', 'x'] ++ showByte b ++ ([',', ' '] ++ showIn input))) = some (b, input) :=
  parseWithImm8_of_parts (parseImm8_showByte b rfl) (parseIn_showIn input)

/-- A mnemonic ends at the space after it. -/
theorem takeMnemonic_append {name : List Char} (h : ∀ c ∈ name, c ≠ ' ' ∧ c ≠ ',') (text : List Char) :
    takeMnemonic (name ++ ' ' :: text) = (name, ' ' :: text) := by
  induction name with
  | nil => rfl
  | cons c name ih =>
    obtain ⟨⟨hspace, hcomma⟩, hname⟩ := List.forall_mem_cons.mp h
    rw [List.cons_append, takeMnemonic, if_neg (not_or.mpr ⟨hspace, hcomma⟩), ih hname]

theorem mnemonic_chars (i : Instr) : ∀ c ∈ i.mnemonic.toList, c ≠ ' ' ∧ c ≠ ',' := by
  cases i <;> simp [Instr.mnemonic]

theorem mnemonic_ne_nil (i : Instr) : i.mnemonic.toList ≠ [] := by
  cases i <;> simp [Instr.mnemonic]

/-- What `assembleLine` reads off the start of a line written for `i`. -/
theorem takeMnemonic_mnemonic (i : Instr) (text : List Char) :
    takeMnemonic (skipSpaces (i.mnemonic.toList ++ ' ' :: text)) = (i.mnemonic.toList, ' ' :: text) := by
  obtain ⟨c, name, hname⟩ := List.exists_cons_of_ne_nil (mnemonic_ne_nil i)
  have hc : c ≠ ' ' := (mnemonic_chars i c (by simp [hname])).1
  calc takeMnemonic (skipSpaces (i.mnemonic.toList ++ ' ' :: text))
    _ = takeMnemonic (i.mnemonic.toList ++ ' ' :: text) := by rw [hname, List.cons_append, skipSpaces_of_ne hc]
    _ = _ := takeMnemonic_append (mnemonic_chars i) text

theorem lookupMnemonic_of_no_imm8 {i : Instr} (h : showImm8 i = none) :
    lookupMnemonic i.mnemonic.toList mnemonicForms = some (.plain i) := by
  cases i with
  | crcFeed _ | lrcFeed _ | encodeRtu _ | encodeAscii _ => cases h
  | crcInit | crcRead | crcCompute | crcValidate | lrcInit | lrcRead | lrcCompute | lrcValidate
  | decodeRtu | decodeAscii | rtuToAscii | asciiToRtu => rfl

theorem lookupMnemonic_of_imm8 {i : Instr} {imm : List Char} (h : showImm8 i = some imm) :
    ∃ c b, i = c b ∧ imm = ['0', 'x'] ++ showByte b ∧
      lookupMnemonic i.mnemonic.toList mnemonicForms = some (.withImm8 c) := by
  cases i with
  | crcFeed b =>
    exact ⟨.crcFeed, b, rfl, (Option.some.inj h).symm, show lookupMnemonic "CRC_FEED".toList mnemonicForms = _ from rfl⟩
  | lrcFeed b =>
    exact ⟨.lrcFeed, b, rfl, (Option.some.inj h).symm, show lookupMnemonic "LRC_FEED".toList mnemonicForms = _ from rfl⟩
  | encodeRtu a =>
    exact ⟨.encodeRtu, a, rfl, (Option.some.inj h).symm, show lookupMnemonic "ENCODE_RTU".toList mnemonicForms = _ from rfl⟩
  | encodeAscii a =>
    exact ⟨.encodeAscii, a, rfl, (Option.some.inj h).symm, show lookupMnemonic "ENCODE_ASCII".toList mnemonicForms = _ from rfl⟩
  | crcInit | crcRead | crcCompute | crcValidate | lrcInit | lrcRead | lrcCompute | lrcValidate
  | decodeRtu | decodeAscii | rtuToAscii | asciiToRtu => cases h

/-- A line of a command without operand assembles by its mnemonic and its `IN`. -/
theorem assembleLine_plain {line name text : List Char} {i : Instr} {bytes : Bytes}
    (hname : takeMnemonic (skipSpaces line) = (name, text)) (hform : lookupMnemonic name mnemonicForms = some (.plain i))
    (hin : parseWithoutImm8 text = some bytes) : assembleLine line = some [issueOf bytes i] := by
  simp [assembleLine, hname, hform, hin]

/-- A line of a command with an operand assembles by its mnemonic, its operand and its `IN`. -/
theorem assembleLine_withImm8 {line name text : List Char} {c : Byte → Instr} {imm : Byte} {bytes : Bytes}
    (hname : takeMnemonic (skipSpaces line) = (name, text))
    (hform : lookupMnemonic name mnemonicForms = some (.withImm8 c))
    (hin : parseWithImm8 text = some (imm, bytes)) : assembleLine line = some [issueOf bytes (c imm)] := by
  simp [assembleLine, hname, hform, hin]

theorem showLine_of_no_imm8 {i : Instr} (h : showImm8 i = none) (input : Bytes) :
    showLine i input = i.mnemonic.toList ++ ' ' :: showIn input := by
  simp [showLine, h]

theorem showLine_of_imm8 {i : Instr} {imm : List Char} (h : showImm8 i = some imm) (input : Bytes) :
    showLine i input = i.mnemonic.toList ++ ' ' :: (imm ++ ([',', ' '] ++ showIn input)) := by
  simp [showLine, h]

theorem assembleLine_showLine (i : Instr) (input : Bytes) : assembleLine (showLine i input) = some [issueOf input i] := by
  cases h : showImm8 i with
  | none =>
    rw [showLine_of_no_imm8 h]
    exact assembleLine_plain (takeMnemonic_mnemonic i _) (lookupMnemonic_of_no_imm8 h) (parseWithoutImm8_showIn input)
  | some imm =>
    rw [showLine_of_imm8 h]
    obtain ⟨c, b, rfl, rfl, hform⟩ := lookupMnemonic_of_imm8 h
    exact assembleLine_withImm8 (takeMnemonic_mnemonic _ _) hform (parseWithImm8_showIn b input)

end Sys2Proof.Machine
end

section
/-! The statements about the encoding (spec/30_encoding.md), settled. -/

namespace Sys2Proof.Proofs

open Sys2Proof.Machine

/-- Settles O13: the first clause is `decode_encode`, the second puts the word together from its two fields. -/
theorem decodeAndEncodeAgree : Obligations.DecodeAndEncodeAgree :=
  ⟨decode_encode, fun _ _ => encode_of_decode⟩

/-- Settles O14: every row is the row of some command, and a mnemonic names one row. -/
theorem decoderFollowsOpcodeTable : Obligations.DecoderFollowsOpcodeTable := by
  intro w row hrow
  obtain ⟨i, rfl⟩ := exists_opcodeRow hrow
  rw [and_mask_eq_pattern_iff_decode]
  constructor
  · rintro ⟨j, hd, hj⟩
    exact ⟨j, hd, congrArg OpcodeRow.mnemonic hj, operand_toNat_of_decode hd⟩
  · rintro ⟨j, hd, hj, -⟩
    exact ⟨j, hd, opcodeRow_eq_of_mnemonic_eq hj⟩

/-- Settles O15: the decoder computes each word. -/
theorem writtenWordsDecode : Obligations.WrittenWordsDecode :=
  ⟨rfl, rfl, rfl, rfl, rfl, rfl, rfl, rfl, rfl⟩

/-- Settles O16: no command has a reserved opcode, and none of the twelve has a non-zero operand, so the word is no command's. -/
theorem illegalWordsRaiseIllegalCmd : Obligations.IllegalWordsRaiseIllegalCmd := by
  refine ⟨fun s w input rest h hl hop => step_of_no_command h hl fun i hd => ?_,
    fun op hfree s w input rest h hl hop himm => step_of_no_command h hl fun i hd => ?_⟩
  · exact not_isReservedOp_opcode i (opcode_toNat_of_decode hd ▸ hop)
  · have hi : i.opcode.toNat ∈ Claims.operandFreeOps := by rwa [opcode_toNat_of_decode hd, hop]
    rw [← operand_toNat_of_decode hd, operand_of_operandFree hi] at himm
    exact himm rfl

/-- Settles O17, by the profile each command needs. -/
theorem profileGatesFourCommands : Obligations.ProfileGatesFourCommands :=
  ⟨fun _ _ _ => answers_of_other_profile, fun _ _ _ _ => exec_of_other_profile⟩

/-- Settles O18, by whether the line shows an operand. -/
theorem assemblerReadsWhatItWrites : Obligations.AssemblerReadsWhatItWrites := assembleLine_showLine

/-- Settles O19: the assembler computes each line. -/
theorem exampleLinesAssemble : Obligations.ExampleLinesAssemble :=
  ⟨rfl, rfl, rfl, rfl⟩

/-- Settles O34. -/
theorem hexEncodingIsUppercaseHighNibbleFirst : Obligations.HexEncodingIsUppercaseHighNibbleFirst :=
  fun s => ⟨hexEnc_length s, hexEnc_getElem? s⟩

/-- Settles O35. -/
theorem hexDecodingIsExact : Obligations.HexDecodingIsExact :=
  ⟨hexVal_eq_some, fun _ _ _ => hexDec_eq_some_iff⟩

/-- Settles O37: each split of a frame long enough succeeds and returns the address, whatever it is. -/
theorem addressesAreClassifiedNotRefused : Obligations.AddressesAreClassifiedNotRefused := by
  refine ⟨addrClassOf_code, fun a s h1 h2 => ⟨fun hp => ?_, fun hp => ?_⟩, fun a s rest hin h => ?_,
    fun a s t rest hin h ht => ?_⟩
  · exact ⟨_, encodeRtu_answers a hp h1 h2, rfl, rfl⟩
  · exact ⟨_, encodeAscii_answers a hp h1 h2, rfl, rfl⟩
  · obtain ⟨pdu, rx, computed, hsplit, hlen⟩ := rtuSplit_cons (a := a) h
    rw [← hin] at hsplit
    refine ⟨fun hp => ⟨_, decodeRtu_answers hp hsplit, rfl, rfl, rfl⟩, fun hl => ?_⟩
    have hpdu : pdu.length ≤ 253 := by omega
    exact ⟨_, rtuToAscii_answers hsplit hpdu, rfl, rfl, rfl⟩
  · obtain ⟨pdu, rx, computed, hsplit, hlen⟩ := asciiSplit_of_hexText h ht
    replace hsplit : asciiSplit s.params.asciiAcceptLowercase s.input = .ok _ := hin ▸ hsplit
    refine ⟨fun hp => ⟨_, decodeAscii_answers hp hsplit, rfl, rfl, rfl⟩, fun hl => ?_⟩
    have hpdu : pdu.length ≤ 253 := by omega
    exact ⟨_, asciiToRtu_answers hsplit hpdu, rfl, rfl, rfl⟩

/-- Settles O50: CRC_INIT sets the register where CRC16 starts, and each CRC_FEED makes one step of its fold. -/
theorem crcStreamEqualsCrcCompute : Obligations.CrcStreamEqualsCrcCompute := by
  intro s u bytes h hin
  refine ⟨crcResult (crc16 bytes), hin ▸ rfl, ?_⟩
  rw [runSteps_succ (step_of_issued h)]
  exact runSteps_crcFeeds_read (congrArg List.tail h)

/-- Settles O51: LRC_INIT starts the sum at 0, and the running sum mod 256 is the byte sum mod 256. -/
theorem lrcStreamEqualsLrcCompute : Obligations.LrcStreamEqualsLrcCompute := by
  intro s u bytes h hin
  refine ⟨lrcResult (lrc8 bytes), hin ▸ rfl, ?_⟩
  rw [runSteps_succ (step_of_issued h)]
  have hrun : runSteps (bytes.length + 1) ((s.setLrcSum 0x00#8).returning {}) = _ :=
    runSteps_lrcFeeds_read (congrArg List.tail h)
  rw [State.returning_lrcSum, State.setLrcSum_lrcSum, foldl_lrcAdd_zero] at hrun
  exact hrun

end Sys2Proof.Proofs
end

section
/-! The facts the checksum statements (spec/40_checksum.md) need: the eight shifts of a byte, the CRC and LRC of a checked sequence,
the validators on a payload and its check field, and the word of each command. -/

namespace Sys2Proof.Machine

/-! CRC_SHIFT and CRC_BYTE (R52). -/

theorem getLsbD_zero_iff (r : Half) : r.getLsbD 0 = true ↔ r.toNat % 2 = 1 := by
  rw [BitVec.getLsbD, Nat.testBit_zero, decide_eq_true_iff]

theorem crcShift_toNat (r : Half) :
    (crcShift r).toNat = if r.toNat % 2 = 1 then (r.toNat / 2) ^^^ 0xA001 else r.toNat / 2 := by
  have half : (r >>> 1).toNat = r.toNat / 2 := by rw [BitVec.toNat_ushiftRight, Nat.shiftRight_one]
  rw [crcShift]
  simp only [getLsbD_zero_iff]
  split
  · rw [BitVec.toNat_xor, half]
    rfl
  · exact half

theorem crcShifts_eq_iterate (n : Nat) (t : Half) : crcShifts n t = crcShift^[n] t := by
  induction n generalizing t with
  | zero => rfl
  | succ n ih => exact ih (crcShift t)

/-- Shifts that drop only zero bits XOR nothing in: the register just moves right. -/
theorem crcShifts_of_low_bits_zero {n : Nat} {t : Half} (h : ∀ k < n, t.getLsbD k = false) :
    crcShifts n t = t >>> n := by
  induction n generalizing t with
  | zero => exact (BitVec.ushiftRight_zero t).symm
  | succ n ih =>
    have hshift : crcShift t = t >>> 1 := by rw [crcShift, h 0 n.succ_pos, if_neg Bool.false_ne_true]
    have hbits : ∀ k < n, (t >>> 1).getLsbD k = false := fun k hk => by
      rw [BitVec.getLsbD_ushiftRight]
      exact h (1 + k) (by omega)
    rw [crcShifts, hshift, ih hbits, ← BitVec.shiftRight_add, Nat.add_comm 1 n]

/-- A register fed its own low byte drops it: the byte cancels the eight bits that the shifts test. -/
theorem crcByte_lowByte (c : Half) : crcByte c (lowByte c) = c >>> 8 := by
  have hbits : ∀ k < 8, (c ^^^ (lowByte c).setWidth 16).getLsbD k = false := fun k hk => by
    simp [lowByte, hk, show k < 16 by omega]
  rw [crcByte, crcShifts_of_low_bits_zero hbits]
  ext k hk
  simp [lowByte]

/-- The high byte, moved down and then fed, cancels as a whole: eight shifts of 0 are left. -/
theorem crcByte_highByte (c : Half) : crcByte (c >>> 8) (highByte c) = 0x0000 := by
  have hcancel : c >>> 8 ^^^ (highByte c).setWidth 16 = 0x0000#16 := by
    have hhigh : (highByte c).setWidth 16 = c >>> 8 := BitVec.eq_of_toNat_eq <| by
      have := c.isLt
      rw [BitVec.toNat_setWidth, highByte_toNat, BitVec.toNat_ushiftRight, Nat.shiftRight_eq_div_pow]
      omega
    rw [hhigh, BitVec.xor_self]
  rw [crcByte, hcancel]
  rfl

theorem crcByte_own_bytes (c : Half) : crcByte (crcByte c (lowByte c)) (highByte c) = 0x0000 := by
  rw [crcByte_lowByte, crcByte_highByte]

/-- The residue of a sequence with its CRC behind it (R67). -/
theorem crc16_append_crcWire (s : Bytes) : crc16 (s ++ crcWire (crc16 s)) = 0x0000 := by
  rw [crc16_append]
  exact crcByte_own_bytes (crc16 s)

/-! The LRC on integers (R53, R67). -/

/-- The 8-bit wrapped sum is the byte sum mod 256. -/
theorem foldl_add_toNat (s : Bytes) : (s.foldl (· + ·) (0 : Byte)).toNat = byteSum s % 256 := by
  have hadd : lrcAdd = (· + ·) := funext₂ lrcAdd_eq
  calc (s.foldl (· + ·) (0 : Byte)).toNat
    _ = (s.foldl lrcAdd 0x00#8).toNat := by rw [hadd]; rfl
    _ = byteSum s % 256 := by rw [foldl_lrcAdd_zero, BitVec.toNat_ofNat, Nat.mod_mod]

/-- The one byte that completes a sequence to sum 0 mod 256 is its LRC. -/
theorem eq_lrc8_iff (s : Bytes) (l : Byte) : l = lrc8 s ↔ byteSum (s ++ [l]) % 256 = 0 := by
  have := l.isLt
  rw [← BitVec.toNat_inj, lrc8_toNat, byteSum_append, byteSum_cons, byteSum_nil]
  omega

/-! The validators on a payload and its check field (R59, R64). -/

theorem ofNat_wire (b0 b1 : Byte) : BitVec.ofNat 16 (b0.toNat + 256 * b1.toNat) = crcOfWire b0 b1 := by
  rw [← crcOfWire_toNat, BitVec.ofNat_toNat, BitVec.setWidth_eq]

theorem crcOfWire_eq_iff (b0 b1 : Byte) (c : Half) : crcOfWire b0 b1 = c ↔ b0.toNat + 256 * b1.toNat = c.toNat := by
  rw [← BitVec.toNat_inj, crcOfWire_toNat]

/-- Bytes are equal where their zero-extensions are. -/
theorem setWidth_byte_inj (x y : Byte) : x.setWidth 16 = y.setWidth 16 ↔ x = y := by
  have := x.isLt
  have := y.isLt
  rw [← BitVec.toNat_inj, ← BitVec.toNat_inj, BitVec.toNat_setWidth, BitVec.toNat_setWidth]
  omega

theorem crcValidate_short {frame : Bytes} (h : frame.length < 2) : crcValidate frame = .error .rangeLength := if_pos h

theorem crcValidate_of_parts (payload : Bytes) (b0 b1 : Byte) :
    crcValidate (payload ++ [b0, b1]) = .ok (Result.withCheck (crcOfWire b0 b1) (crc16 payload) {}) := by
  have hl : ¬ (payload ++ [b0, b1]).length < 2 := by simp
  rw [crcValidate, if_neg hl, trailingCrc_append, payloadOf_append (k := 2) payload [b0, b1] rfl]

theorem lrcValidate_nil : lrcValidate [] = .error .rangeLength := rfl

theorem lrcValidate_of_parts (payload : Bytes) (l : Byte) :
    lrcValidate (payload ++ [l]) = .ok (Result.withCheck (l.setWidth 16) ((lrc8 payload).setWidth 16) {}) := by
  have hl : ¬ (payload ++ [l]).length < 1 := by simp
  rw [lrcValidate, if_neg hl, trailingLrc_append, payloadOf_append (k := 1) payload [l] rfl]

/-- A pure command ends with the Result its pseudocode returns. -/
theorem answers_of_ok {i : Instr} {s : State} {e : Except Status Result} {r : Result} (hi : exec i s = conclude e s)
    (he : e = .ok r) : Claims.answers i s r := by
  rw [Claims.answers, hi, he]
  rfl

/-- A pure command ends with the error its pseudocode raises. -/
theorem answers_of_error {i : Instr} {s : State} {e : Except Status Result} {c : Status} (hi : exec i s = conclude e s)
    (he : e = .error c) : Claims.answers i s (Claims.failed c) := by
  rw [Claims.answers, hi, he]
  rfl

/-- CRC_VALIDATE on a payload and two bytes, in the numbers of R59. -/
theorem crcValidate_answers_of_parts {s : State} {payload : Bytes} {b0 b1 : Byte} (h : s.input = payload ++ [b0, b1]) :
    Claims.answers .crcValidate s
      { chkOk := decide (b0.toNat + 256 * b1.toNat = (crc16 payload).toNat),
        rxCheck := BitVec.ofNat 16 (b0.toNat + 256 * b1.toNat), calcCheck := crc16 payload } := by
  simp only [ofNat_wire, ← crcOfWire_eq_iff]
  exact answers_of_ok (e := crcValidate s.input) rfl (h ▸ crcValidate_of_parts payload b0 b1)

/-- LRC_VALIDATE on a payload and one byte (R64). -/
theorem lrcValidate_answers_of_parts {s : State} {payload : Bytes} {l : Byte} (h : s.input = payload ++ [l]) :
    Claims.answers .lrcValidate s
      { chkOk := decide (l = lrc8 payload), rxCheck := BitVec.ofNat 16 l.toNat,
        calcCheck := BitVec.ofNat 16 (lrc8 payload).toNat } := by
  simp only [← setWidth_byte_inj l, BitVec.ofNat_toNat]
  exact answers_of_ok (e := lrcValidate s.input) rfl (h ▸ lrcValidate_of_parts payload l)

/-! The word of a command and the words beside it (R35, R37). -/

theorem wordOf_encode {w : CmdWord} {i : Instr} (h : encode i = w) : Claims.wordOf w i :=
  ⟨h ▸ decode_encode i, h⟩

/-- A command word by the number of its two fields, as the statements write the words with an operand (R33, R34). -/
theorem cmdWord_eq_ofNat (op imm : Byte) : cmdWord op imm = BitVec.ofNat 16 (256 * op.toNat + imm.toNat) := by
  rw [← cmdWord_toNat, BitVec.ofNat_toNat, BitVec.setWidth_eq]

theorem refusesOperand_of_mem {op : Nat} (h : op ∈ Claims.operandFreeOps) : Claims.refusesOperand op :=
  Proofs.illegalWordsRaiseIllegalCmd.2 op h

end Sys2Proof.Machine
end

section
/-! The statements about the checksums and their commands (spec/40_checksum.md), settled. -/

namespace Sys2Proof.Proofs

open Sys2Proof.Machine

/-- Settles O20. -/
theorem crcIsEightShiftsPerByte : Obligations.CrcIsEightShiftsPerByte := by
  refine ⟨crcShift_toNat, fun r b => ?_, rfl, fun s b => crc16_append s [b]⟩
  rw [crcByte, crcShifts_eq_iterate, BitVec.ofNat_toNat]

/-- Settles O21: the wrapped sum is the byte sum mod 256, and masking with 0xFF is reducing mod 256. -/
theorem lrcIsNegatedByteSum : Obligations.LrcIsNegatedByteSum := by
  refine ⟨lrc8_toNat, fun s => ?_, rfl⟩
  rw [foldl_add_toNat, lrc8_toNat]
  exact (Nat.and_two_pow_sub_one_eq_mod _ 8).symm

/-- Settles O33. -/
theorem lrcValidateComparesTrailingLrc : Obligations.LrcValidateComparesTrailingLrc := by
  refine ⟨wordOf_encode rfl, refusesOperand_of_mem (by decide), fun s h => ?_, fun s payload l h => ?_⟩
  · exact answers_of_error (e := lrcValidate s.input) rfl (h ▸ lrcValidate_nil)
  · rw [h]
    exact ⟨lrcValidate_answers_of_parts h, eq_lrc8_iff payload l⟩

/-- Settles O22: LRC_VALIDATE is O33 on the last byte of a non-empty `IN`, and the CRC bytes shift the register out. -/
theorem checkedSequencesHaveZeroResidue : Obligations.CheckedSequencesHaveZeroResidue := by
  refine ⟨fun s => (eq_lrc8_iff s (lrc8 s)).mp rfl, fun s hne => ?_, crc16_append_crcWire⟩
  obtain ⟨payload, l, h⟩ : ∃ payload l, s.input = payload ++ [l] :=
    ⟨_, _, (List.dropLast_append_getLast hne).symm⟩
  obtain ⟨-, -, -, hvalidate⟩ := lrcValidateComparesTrailingLrc
  obtain ⟨hanswers, hsum⟩ := hvalidate s payload l h
  exact ⟨_, hanswers, rfl, decide_eq_true_iff.trans hsum⟩

/-- Settles O25. -/
theorem crcFeedTakesOneByte : Obligations.CrcFeedTakesOneByte :=
  ⟨fun b => wordOf_encode (cmdWord_eq_ofNat 0x02 b), fun _ _ => rfl, rfl, rfl, crcByte_own_bytes⟩

/-- Settles O28: with the bytes swapped the comparison is of b1 + 256 * b0 with b0 + 256 * b1. -/
theorem crcValidateComparesTrailingCrc : Obligations.CrcValidateComparesTrailingCrc := by
  refine ⟨wordOf_encode rfl, refusesOperand_of_mem (by decide), fun s h => ?_,
    fun s payload b0 b1 => crcValidate_answers_of_parts, fun s payload b0 b1 hcrc h => ?_⟩
  · exact answers_of_error rfl (crcValidate_short h)
  · refine ⟨_, crcValidate_answers_of_parts h, ?_⟩
    rw [decide_eq_true_iff, ← hcrc, ← BitVec.toNat_inj]
    omega

/-- Settles O31. -/
theorem lrcReadReturnsNegatedSum : Obligations.LrcReadReturnsNegatedSum := by
  refine ⟨wordOf_encode rfl, refusesOperand_of_mem (by decide), fun s => ⟨lrcOfSum s.lrcSum, lrcOfSum_toNat _, ?_⟩⟩
  rw [BitVec.ofNat_toNat]
  rfl

/-- Settles O52: the reset sets the registers where CRC16 and the byte sum start, so the streams run as after their INIT. -/
theorem resetStartsACrcStream : Obligations.ResetStartsACrcStream := by
  refine ⟨fun s u bytes h hin => ⟨crcResult (crc16 bytes), hin ▸ rfl, ?_⟩,
    fun s u bytes h hin => ⟨lrcResult (lrc8 bytes), hin ▸ rfl, ?_⟩⟩
  · rw [runSteps_succ (step_of_reset h)]
    exact runSteps_crcFeeds_read (by simp [h])
  · rw [runSteps_succ (step_of_reset h)]
    have hrun := runSteps_lrcFeeds_read (s := s.afterReset) (bytes := bytes) (by simp [h])
    rw [State.afterReset_lrcSum, foldl_lrcAdd_zero] at hrun
    exact hrun

/-- Settles O24. -/
theorem crcInitStartsAStream : Obligations.CrcInitStartsAStream :=
  ⟨wordOf_encode rfl, refusesOperand_of_mem (by decide), fun _ => rfl⟩

/-- Settles O26. -/
theorem crcReadReturnsTheRegister : Obligations.CrcReadReturnsTheRegister :=
  ⟨wordOf_encode rfl, refusesOperand_of_mem (by decide), fun _ => rfl⟩

/-- Settles O27. -/
theorem crcComputeReturnsCrcOfInput : Obligations.CrcComputeReturnsCrcOfInput :=
  ⟨wordOf_encode rfl, refusesOperand_of_mem (by decide), fun _ => rfl, rfl, by decide +kernel⟩

/-- Settles O29. -/
theorem lrcInitStartsAStream : Obligations.LrcInitStartsAStream :=
  ⟨wordOf_encode rfl, refusesOperand_of_mem (by decide), fun _ => rfl⟩

/-- Settles O30. -/
theorem lrcFeedAddsOneByte : Obligations.LrcFeedAddsOneByte := by
  refine ⟨fun b => wordOf_encode (cmdWord_eq_ofNat 0x09 b), fun s b => ?_⟩
  rw [← lrcAdd_eq]
  rfl

/-- Settles O32. -/
theorem lrcComputeReturnsLrcOfInput : Obligations.LrcComputeReturnsLrcOfInput := by
  refine ⟨wordOf_encode rfl, refusesOperand_of_mem (by decide), fun s => ?_, rfl, rfl, rfl⟩
  rw [BitVec.ofNat_toNat]
  rfl

end Sys2Proof.Proofs
end

section
/-! The facts the codec statements (spec/41_frame_codec.md) need: what each split makes of a frame, good or not, the Result of a
split in the numbers of its check bytes, and how a codec command ends once its split or its length check is known. -/

namespace Sys2Proof.Machine

/-! The Result of a split (R69, R71). -/

/-- A received check that is the computed one sets `CHK_OK` (R20). -/
theorem decodedResult_chkOk_self (a : Byte) (pdu : Bytes) (c : Half) : (decodedResult a pdu c c).chkOk = true :=
  decide_eq_true rfl

/-- The Result of a split RTU frame, in the numbers of its two CRC bytes. -/
theorem decodedResult_of_crc (a : Byte) (pdu : Bytes) (b0 b1 : Byte) (c : Half) :
    decodedResult a pdu (crcOfWire b0 b1) c =
      { addr := a, addrClass := addrClassOf a, out := pdu, chkOk := decide (b0.toNat + 256 * b1.toNat = c.toNat),
        rxCheck := BitVec.ofNat 16 (b0.toNat + 256 * b1.toNat), calcCheck := c } := by
  simp only [ofNat_wire, ← crcOfWire_eq_iff]
  rfl

/-- The Result of a split ASCII frame, in the numbers of its LRC byte. -/
theorem decodedResult_of_lrc (a : Byte) (pdu : Bytes) (l m : Byte) :
    decodedResult a pdu (l.setWidth 16) (m.setWidth 16) =
      { addr := a, addrClass := addrClassOf a, out := pdu, chkOk := decide (l = m),
        rxCheck := BitVec.ofNat 16 l.toNat, calcCheck := BitVec.ofNat 16 m.toNat } := by
  simp only [BitVec.ofNat_toNat, ← setWidth_byte_inj l]
  rfl

/-! The RTU split (R69). -/

/-- An RTU frame splits into what it was made of, the received CRC being the computed one. -/
theorem rtuSplit_rtuFrame (a : Byte) {pdu : Bytes} (h : pdu ≠ []) :
    rtuSplit (rtuFrame a pdu) = .ok (decodedResult a pdu (crc16 ([a] ++ pdu)) (crc16 ([a] ++ pdu))) := by
  have hsplit := rtuSplit_of_parts a h (lowByte (crc16 ([a] ++ pdu))) (highByte (crc16 ([a] ++ pdu)))
  rwa [crcOfWire_bytes] at hsplit

/-- A frame over 256 bytes splits as well, and its PDU is over 253 bytes: the split has no upper bound. -/
theorem rtuSplit_overlong {frame : Bytes} (h : 256 < frame.length) :
    ∃ d, rtuSplit frame = .ok d ∧ 253 < d.out.length := by
  obtain ⟨a, rest, rfl⟩ := List.exists_cons_of_length_pos (Nat.zero_lt_of_lt h)
  rw [List.length_cons] at h
  obtain ⟨pdu, rx, computed, hsplit, hlen⟩ := rtuSplit_cons (a := a) (rest := rest) (by omega)
  exact ⟨_, hsplit, show 253 < pdu.length by omega⟩

/-! The ASCII split (R71). -/

/-- The markers of a frame with room for them: its first character and its last two. -/
theorem asciiMarkersOk_iff {frame : Bytes} (h : 3 ≤ frame.length) :
    asciiMarkersOk frame = true ↔
      frame.head? = some 0x3A ∧ frame.drop (frame.length - 2) = [0x0D, 0x0A] := by
  obtain ⟨a, mid, tail, rfl, htail⟩ := exists_parts h
  obtain ⟨c, d, rfl⟩ := List.length_eq_two.mp htail
  simp [asciiMarkersOk, byteAt, charColon, charCR, charLF]

theorem asciiSplit_bad_marker {frame : Bytes} (h : 11 ≤ frame.length)
    (hm : frame.head? ≠ some 0x3A ∨ frame.drop (frame.length - 2) ≠ [0x0D, 0x0A]) (lower : Bool) :
    asciiSplit lower frame = .error .rangeMarker := by
  refine asciiSplit_unmarked h (Bool.eq_false_iff.mpr fun hok => ?_) lower
  obtain ⟨hhead, htail⟩ := (asciiMarkersOk_iff (by omega)).mp hok
  exact hm.elim (· hhead) (· htail)

/-- Where HEXDEC is defined every character is a hex digit (R44). -/
theorem hexVal_ne_none_of_hexDec {lower : Bool} : ∀ {t r : Bytes}, hexDec lower t = some r → ∀ c ∈ t, hexVal lower c ≠ none
  | [], _, _ => List.forall_mem_nil _
  | [_], _, h => by cases h
  | hi :: lo :: t, _, h => by
    obtain ⟨x, y, q, hx, hy, hq, -⟩ := hexDec_cons_cons_eq_some.mp h
    have hne {c : Byte} {v : Nat} (hc : hexVal lower c = some v) : hexVal lower c ≠ none := hc ▸ Option.some_ne_none v
    exact List.forall_mem_cons.mpr ⟨hne hx, List.forall_mem_cons.mpr ⟨hne hy, hexVal_ne_none_of_hexDec hq⟩⟩

theorem asciiSplit_bad_hex {lower : Bool} {t : Bytes} (h : 8 ≤ t.length)
    (hbad : t.length % 2 = 1 ∨ ∃ c ∈ t, hexVal lower c = none) :
    asciiSplit lower ([charColon] ++ t ++ [charCR, charLF]) = .error .rangeHex := by
  rw [asciiSplit_of_text lower h]
  split
  · rfl
  next heven =>
    cases hd : hexDec lower t with
    | none => rfl
    | some r =>
      obtain hodd | ⟨c, hc, hnone⟩ := hbad
      · omega
      · exact absurd hnone (hexVal_ne_none_of_hexDec hd c hc)

/-- The hex text of an address, a PDU and an LRC byte between the markers splits into the three. -/
theorem asciiSplit_of_parts {lower : Bool} {t : Bytes} {a : Byte} {pdu : Bytes} {l : Byte} (h : 8 ≤ t.length)
    (ht : Claims.hexText lower t ([a] ++ pdu ++ [l])) :
    asciiSplit lower ([charColon] ++ t ++ [charCR, charLF])
      = .ok (decodedResult a pdu (l.setWidth 16) ((lrc8 ([a] ++ pdu)).setWidth 16)) := by
  have hlen := ht.1
  rw [asciiSplit_of_text lower h, if_neg (by omega), hexDec_eq_some_iff.mpr ht]
  exact congrArg Except.ok (asciiFields_of_parts a pdu l)

/-- An ASCII frame of a PDU of at least two bytes splits into what it was made of, whichever case is accepted: the encoder writes
uppercase. -/
theorem asciiSplit_asciiFrame (lower : Bool) (a : Byte) {pdu : Bytes} (h : 2 ≤ pdu.length) :
    asciiSplit lower (asciiFrame a pdu)
      = .ok (decodedResult a pdu ((lrc8 ([a] ++ pdu)).setWidth 16) ((lrc8 ([a] ++ pdu)).setWidth 16)) := by
  refine asciiSplit_of_parts ?_ (hexDec_eq_some_iff.mp (hexDec_hexEnc lower _))
  rw [hexEnc_length]
  simp only [List.length_append, List.length_singleton]
  omega

/-! How a codec command ends once its length check or its split is known. -/

theorem pduLengthOk_ne_true {pdu : Bytes} (h : pdu.length < 1 ∨ 253 < pdu.length) : ¬ pduLengthOk pdu = true := by
  rw [pduLengthOk_iff]
  omega

theorem rtuEncode_out_of_range {pdu : Bytes} (h : pdu.length < 1 ∨ 253 < pdu.length) (a : Byte) :
    rtuEncode a pdu = .error .rangePdu := if_neg (pduLengthOk_ne_true h)

theorem asciiEncode_out_of_range {pdu : Bytes} (h : pdu.length < 1 ∨ 253 < pdu.length) (a : Byte) :
    asciiEncode a pdu = .error .rangePdu := if_neg (pduLengthOk_ne_true h)

/-- DECODE_ASCII raises what its split raises (R71). -/
theorem decodeAscii_answers_error {s : State} {c : Status} (hp : s.profile = .ascii)
    (h : asciiSplit s.params.asciiAcceptLowercase s.input = .error c) : Claims.answers .decodeAscii s (Claims.failed c) :=
  answers_of_error (gated_of_profile hp _) h

/-- The split's raise ends RTU_TO_ASCII (R72). -/
theorem rtuToAscii_answers_error {s : State} {c : Status} (h : rtuSplit s.input = .error c) :
    Claims.answers .rtuToAscii s (Claims.failed c) :=
  answers_of_error (e := (rtuSplit s.input).bind reframeAsAscii) rfl (by rw [h]; rfl)

/-- The split's raise ends ASCII_TO_RTU (R73). -/
theorem asciiToRtu_answers_error {s : State} {c : Status}
    (h : asciiSplit s.params.asciiAcceptLowercase s.input = .error c) : Claims.answers .asciiToRtu s (Claims.failed c) :=
  answers_of_error (e := (asciiSplit s.params.asciiAcceptLowercase s.input).bind reframeAsRtu) rfl (by rw [h]; rfl)

/-- A PDU over 253 bytes is split but not re-framed (R72). -/
theorem rtuToAscii_answers_overlong {s : State} {d : Result} (h : rtuSplit s.input = .ok d) (hl : 253 < d.out.length) :
    Claims.answers .rtuToAscii s (Claims.failed .rangePdu) :=
  answers_of_error (e := (rtuSplit s.input).bind reframeAsAscii) rfl (by rw [h]; exact if_pos hl)

/-- A PDU over 253 bytes is split but not re-framed (R73). -/
theorem asciiToRtu_answers_overlong {s : State} {d : Result}
    (h : asciiSplit s.params.asciiAcceptLowercase s.input = .ok d) (hl : 253 < d.out.length) :
    Claims.answers .asciiToRtu s (Claims.failed .rangePdu) :=
  answers_of_error (e := (asciiSplit s.params.asciiAcceptLowercase s.input).bind reframeAsRtu) rfl
    (by rw [h]; exact if_pos hl)

end Sys2Proof.Machine
end

section
/-! The statements about the frame codec (spec/41_frame_codec.md), settled. -/

namespace Sys2Proof.Proofs

open Sys2Proof.Machine

/-- Settles O38, by the profile and the length of the PDU. -/
theorem encodeRtuWritesTheFrame : Obligations.EncodeRtuWritesTheFrame :=
  ⟨fun a => wordOf_encode (cmdWord_eq_ofNat 0x10 a), fun _ _ => answers_of_other_profile rfl,
    fun _ a hp h => answers_of_error (gated_of_profile hp _) (rtuEncode_out_of_range h a),
    fun _ => encodeRtu_answers⟩

/-- Settles O39, by the profile and the length of the frame. -/
theorem decodeRtuReadsTheFrame : Obligations.DecodeRtuReadsTheFrame := by
  refine ⟨wordOf_encode rfl, refusesOperand_of_mem (by decide), fun _ => answers_of_other_profile rfl,
    fun _ hp h => answers_of_error (gated_of_profile hp _) (rtuSplit_short h), fun s a p b0 b1 hp hne hin => ?_⟩
  rw [← decodedResult_of_crc]
  exact decodeRtu_answers hp (hin ▸ rtuSplit_of_parts a hne b0 b1)

/-- Settles O40, by the profile and the length of the PDU. -/
theorem encodeAsciiWritesTheFrame : Obligations.EncodeAsciiWritesTheFrame := by
  refine ⟨fun a => wordOf_encode (cmdWord_eq_ofNat 0x12 a), fun _ _ => answers_of_other_profile rfl,
    fun _ a hp h => answers_of_error (gated_of_profile hp _) (asciiEncode_out_of_range h a), fun s a hp h1 h2 => ?_⟩
  rw [BitVec.ofNat_toNat]
  exact encodeAscii_answers a hp h1 h2

/-- Settles O41: each check of the split is met by the case that fails it, and the last case by the frame that passes all. -/
theorem decodeAsciiReadsTheFrame : Obligations.DecodeAsciiReadsTheFrame := by
  refine ⟨wordOf_encode rfl, refusesOperand_of_mem (by decide), fun _ => answers_of_other_profile rfl,
    fun _ hp h => decodeAscii_answers_error hp (asciiSplit_short h _),
    fun _ hp h hm => decodeAscii_answers_error hp (asciiSplit_bad_marker h hm _),
    fun _ t hp h hin hbad => decodeAscii_answers_error hp (hin ▸ asciiSplit_bad_hex h hbad),
    fun s t a p l hp h hin ht => ?_⟩
  rw [← decodedResult_of_lrc]
  exact decodeAscii_answers hp (hin ▸ asciiSplit_of_parts h ht)

/-- Settles O42: the frame is split as DECODE_RTU splits it, and the bound on the PDU is checked after the split. -/
theorem rtuToAsciiReframes : Obligations.RtuToAsciiReframes := by
  refine ⟨wordOf_encode rfl, refusesOperand_of_mem (by decide), fun _ h => rtuToAscii_answers_error (rtuSplit_short h),
    fun s h => ?_, fun s a p b0 b1 hne hl hin => ?_⟩
  · obtain ⟨d, hd, hl⟩ := rtuSplit_overlong h
    exact rtuToAscii_answers_overlong hd hl
  · have hsplit := rtuSplit_of_parts a hne b0 b1
    rw [← hin, decodedResult_of_crc] at hsplit
    rw [BitVec.ofNat_toNat 16 (lrc8 _)]
    exact rtuToAscii_answers hsplit hl

/-- Settles O43: the frame is split as DECODE_ASCII splits it, and the bound on the PDU is checked after the split. -/
theorem asciiToRtuReframes : Obligations.AsciiToRtuReframes := by
  refine ⟨wordOf_encode rfl, refusesOperand_of_mem (by decide),
    fun _ h => asciiToRtu_answers_error (asciiSplit_short h _),
    fun _ h hm => asciiToRtu_answers_error (asciiSplit_bad_marker h hm _),
    fun _ t h hin hbad => asciiToRtu_answers_error (hin ▸ asciiSplit_bad_hex h hbad),
    fun s t a p l h hin ht => ?_⟩
  have hsplit : asciiSplit s.params.asciiAcceptLowercase s.input = _ := hin ▸ asciiSplit_of_parts h ht
  rw [decodedResult_of_lrc] at hsplit
  exact ⟨asciiToRtu_answers_overlong hsplit, asciiToRtu_answers hsplit⟩

/-- Settles O44: the encoder's OUT is the RTU frame, which splits into what it was made of. -/
theorem rtuFramesRoundTrip : Obligations.RtuFramesRoundTrip := by
  intro s u a hs hu h1 h253
  refine ⟨_, encodeRtu_answers a hs h1 h253, rfl, fun (hin : u.input = rtuFrame a s.input) => ?_⟩
  have hsplit := hin ▸ rtuSplit_rtuFrame a (List.ne_nil_of_length_pos h1)
  exact ⟨_, decodeRtu_answers hu hsplit, rfl, rfl, rfl, decodedResult_chkOk_self a _ _⟩

/-- Settles O45: the encoder's OUT is the ASCII frame, which splits into what it was made of. -/
theorem asciiFramesRoundTrip : Obligations.AsciiFramesRoundTrip := by
  intro s u a hs hu h2 h253
  refine ⟨_, encodeAscii_answers a hs (Nat.one_le_of_lt h2) h253, rfl, fun (hin : u.input = asciiFrame a s.input) => ?_⟩
  have hsplit := hin ▸ asciiSplit_asciiFrame u.params.asciiAcceptLowercase a h2
  exact ⟨_, decodeAscii_answers hu hsplit, rfl, rfl, rfl, decodedResult_chkOk_self a _ _⟩

/-- Settles O46: the ASCII frame has 9 of the 11 characters its split asks for, the RTU frame all 4 bytes. -/
theorem oneBytePduFitsRtuButNotAscii : Obligations.OneBytePduFitsRtuButNotAscii := by
  refine ⟨fun s u a fc hs hfc => ?_, fun s u a fc hs hu hfc => ?_⟩
  · have hlen : s.input.length = 1 := congrArg List.length hfc
    have hnine : (asciiFrame a s.input).length = 9 := by rw [asciiFrame_length, hlen]
    refine ⟨_, encodeAscii_answers a hs (by omega) (by omega), rfl, hnine,
      fun (hin : u.input = asciiFrame a s.input) => ?_⟩
    have hshort := asciiSplit_short (frame := u.input) (by rw [hin]; omega) u.params.asciiAcceptLowercase
    exact ⟨asciiToRtu_answers_error hshort, fun hu => decodeAscii_answers_error hu hshort⟩
  · have hlen : s.input.length = 1 := congrArg List.length hfc
    have hfour : (rtuFrame a s.input).length = 4 := by rw [rtuFrame_length, hlen]
    refine ⟨_, encodeRtu_answers a hs (by omega) (by omega), hfour, fun (hin : u.input = rtuFrame a s.input) => ?_⟩
    have hsplit := hin ▸ rtuSplit_rtuFrame a (List.ne_nil_of_length_pos (hlen ▸ Nat.one_pos))
    exact ⟨_, decodeRtu_answers hu hsplit, rfl, hfc, decodedResult_chkOk_self a _ _⟩

/-- Settles O48: RTU_TO_ASCII writes an ASCII frame of the same address and PDU, and ASCII_TO_RTU writes the RTU frame back. -/
theorem convertersComposeToIdentity : Obligations.ConvertersComposeToIdentity := by
  intro s u a p h2 h253 (hs : s.input = rtuFrame a p)
  have hrtu := hs ▸ rtuSplit_rtuFrame a (List.ne_nil_of_length_pos (Nat.zero_lt_of_lt h2))
  refine ⟨_, rtuToAscii_answers hrtu h253, rfl, decodedResult_chkOk_self a p _,
    fun (hin : u.input = asciiFrame a p) => ?_⟩
  have hascii := hin ▸ asciiSplit_asciiFrame u.params.asciiAcceptLowercase a h2
  exact ⟨_, asciiToRtu_answers hascii h253, rfl, hs.symm, decodedResult_chkOk_self a p _⟩

end Sys2Proof.Proofs
end

section
/-! The facts the exception statements (spec/60_exceptions.md) need: one step of a fleet, the status each pseudocode ends with, and
what a Result counts in. -/

namespace Sys2Proof

/-- The decoder rejects nothing but reserved opcodes and a non-zero `IMM8` where it is no operand (R37, R38). -/
theorem illegal_of_decode_error {w : CmdWord} {e : DecodeError} (h : decode w = .error e) :
    Claims.isReservedOp (w.toNat / 256) ∨ w.toNat / 256 ∈ Claims.operandFreeOps ∧ w.toNat % 256 ≠ 0 := by
  rw [← opField_toNat, ← immField_toNat]
  have operand {i : Instr} (hi : withoutOperand (opField w) (immField w) i = .error e) : (immField w).toNat ≠ 0 :=
    fun himm => by
      rw [withoutOperand, if_pos (BitVec.eq_of_toNat_eq himm)] at hi
      cases hi
  unfold decode decodeFields at h
  split at h
  case h_2 | h_7 | h_11 | h_13 => cases h
  case h_17 =>
    have hlt := (opField w).isLt
    simp only [imp_false] at *
    refine .inl ?_
    unfold Claims.isReservedOp
    omega
  all_goals
    next hop =>
      rw [hop]
      exact .inr ⟨by decide, operand h⟩

end Sys2Proof

namespace Sys2Proof.Machine

/-! A step of a fleet (R88). -/

/-- Everything a step of a fleet can do: block `k` makes its own step, and its next state takes its place. -/
theorem stepAt_eq_next {k : Nat} {fleet f : List State} :
    stepAt k fleet = .next f ↔ ∃ s t, fleet[k]? = some s ∧ step s = .next t ∧ f = fleet.set k t := by
  rw [stepAt]
  cases hk : fleet[k]? with
  | none => simp
  | some s => cases hs : step s <;> simp [hs, eq_comm]

/-- A block steps the same in a fleet in which another one has changed. -/
theorem stepAt_set_ne {j k : Nat} (hjk : j ≠ k) {fleet : List State} {u t : State} (s : State) (hk : fleet[k]? = some u)
    (hstep : step u = .next t) : stepAt k (fleet.set j s) = .next ((fleet.set j s).set k t) :=
  stepAt_eq_next.mpr ⟨u, t, (List.getElem?_set_ne hjk).trans hk, hstep, rfl⟩

/-! Errors (R81). -/

/-- `s` with a capacity that is legal (R9) and that the `IN` of `s` fits. -/
def State.withRoom (s : State) : State := { s with params := { s.params with maxInLen := max 513 s.input.length } }

/-- The capacity is checked at the host boundary (R25); no command reads it. -/
theorem sameReads_withRoom (i : Instr) (s : State) : SameReads i s s.withRoom :=
  ⟨rfl, rfl, rfl, fun _ => rfl, fun _ => rfl⟩

/-- An error Result has nothing but its status: with room for `IN` that is the invariant, and the Result does not depend on it. -/
theorem errorResult_of_exec {i : Instr} {s : State} {r : Result} (hi : writesNoRegister i = true)
    (h : exec i s = .next (s.returning r)) (hr : r.status ≠ .ok) : r = errorResult r.status := by
  have hroom : s.withRoom.params.wf = true := (Params.wf_iff _).mpr (Nat.le_max_left _ _)
  have hinv := exec_inv hroom (Nat.le_max_right _ _) (exec_transfer hi (sameReads_withRoom i s) h)
  obtain ⟨-, hwf⟩ := (State.inv_iff _).mp hinv
  obtain ⟨hstatus, -⟩ := (Result.wf_iff _ r).mp (hwf r rfl)
  exact hstatus.resolve_left hr

/-! The status a command ends with (R82). -/

/-- The status of what a pseudocode returns or raises. -/
def statusOf : Except Status Result → Status
  | .ok r => r.status
  | .error c => c

theorem crcValidate_status (frame : Bytes) :
    statusOf (crcValidate frame) = if frame.length < 2 then .rangeLength else .ok := by
  rw [crcValidate]
  split <;> rfl

theorem lrcValidate_status (frame : Bytes) :
    statusOf (lrcValidate frame) = if frame.length < 1 then .rangeLength else .ok := by
  rw [lrcValidate]
  split <;> rfl

theorem rtuEncode_status (a : Byte) (pdu : Bytes) :
    statusOf (rtuEncode a pdu) = if pdu.length < 1 ∨ 253 < pdu.length then .rangePdu else .ok := by
  split
  next h => rw [rtuEncode_out_of_range h, statusOf]
  next h => rw [rtuEncode, if_pos ((pduLengthOk_iff pdu).mpr (by omega)), statusOf]

theorem asciiEncode_status (a : Byte) (pdu : Bytes) :
    statusOf (asciiEncode a pdu) = if pdu.length < 1 ∨ 253 < pdu.length then .rangePdu else .ok := by
  split
  next h => rw [asciiEncode_out_of_range h, statusOf]
  next h => rw [asciiEncode, if_pos ((pduLengthOk_iff pdu).mpr (by omega)), statusOf]

theorem rtuSplit_status (frame : Bytes) :
    statusOf (rtuSplit frame) = if frame.length < 4 then .rangeLength else .ok := by
  rw [rtuSplit, rtuMinFrame]
  split <;> rfl

/-- A text of an even number of hex digits is decoded (R44). -/
theorem exists_hexDec {lower : Bool} : ∀ {t : Bytes}, t.length % 2 = 0 → (∀ c ∈ t, hexVal lower c ≠ none) →
    ∃ r, hexDec lower t = some r
  | [], _, _ => ⟨[], rfl⟩
  | [_], heven, _ => absurd heven Nat.one_ne_zero
  | hi :: lo :: t, heven, hall => by
    obtain ⟨hhi, hlo, ht⟩ : _ ∧ _ ∧ _ := by simpa only [List.forall_mem_cons] using hall
    obtain ⟨r, hr⟩ := exists_hexDec (t := t) (by simpa [Nat.add_assoc] using heven) ht
    obtain ⟨h, hh⟩ := Option.ne_none_iff_exists'.mp hhi
    obtain ⟨l, hl⟩ := Option.ne_none_iff_exists'.mp hlo
    exact ⟨_, hexDec_cons_cons_eq_some.mpr ⟨h, l, r, hh, hl, hr, rfl⟩⟩

/-- A frame with the markers of R41 is a text between them. -/
theorem exists_text_of_markers {frame : Bytes} (h : 3 ≤ frame.length) (hhead : frame.head? = some 0x3A)
    (htail : frame.drop (frame.length - 2) = [0x0D, 0x0A]) : ∃ t, frame = [charColon] ++ t ++ [charCR, charLF] := by
  obtain ⟨a, t, tail, rfl, hlen⟩ := exists_parts h
  obtain ⟨c, d, rfl⟩ := List.length_eq_two.mp hlen
  obtain rfl : a = charColon := by simpa [charColon] using hhead
  obtain ⟨rfl, rfl⟩ : c = charCR ∧ d = charLF := by simpa [charCR, charLF] using htail
  exact ⟨t, rfl⟩

/-- The checks of `ascii_split` that are left once the length and the markers are good: the two on the text (R71). -/
theorem asciiStatus_of_text {lower : Bool} {t : Bytes} (h : 8 ≤ t.length) :
    Claims.asciiStatus lower ([charColon] ++ t ++ [charCR, charLF]) =
      if t.length % 2 = 1 ∨ ∃ c ∈ t, hexVal lower c = none then .rangeHex else .ok := by
  have hlen : ([charColon] ++ t ++ [charCR, charLF]).length = t.length + 3 := by simp
  have htext : (([charColon] ++ t ++ [charCR, charLF]).drop 1).take t.length = t := by simp
  have hmarked : ¬ (([charColon] ++ t ++ [charCR, charLF]).head? ≠ some 0x3A ∨
      ([charColon] ++ t ++ [charCR, charLF]).drop (t.length + 3 - 2) ≠ [0x0D, 0x0A]) := by
    simp [charColon, charCR, charLF]
  rw [Claims.asciiStatus, hlen, if_neg (by omega), if_neg hmarked, Nat.add_sub_cancel, htext]
  by_cases hodd : t.length % 2 = 1
  · simp [hodd]
  · simp [hodd]

theorem asciiSplit_status (lower : Bool) (frame : Bytes) :
    statusOf (asciiSplit lower frame) = Claims.asciiStatus lower frame := by
  by_cases hl : frame.length < 11
  · rw [asciiSplit_short hl, Claims.asciiStatus, if_pos hl, statusOf]
  by_cases hm : frame.head? ≠ some 0x3A ∨ frame.drop (frame.length - 2) ≠ [0x0D, 0x0A]
  · rw [asciiSplit_bad_marker (Nat.not_lt.mp hl) hm, Claims.asciiStatus, if_neg hl, if_pos hm, statusOf]
  obtain ⟨hhead, htail⟩ : frame.head? = some 0x3A ∧ frame.drop (frame.length - 2) = [0x0D, 0x0A] := by
    rwa [not_or, not_not, not_not] at hm
  obtain ⟨t, rfl⟩ := exists_text_of_markers (by omega) hhead htail
  have ht : 8 ≤ t.length := by simpa using hl
  rw [asciiStatus_of_text ht]
  split
  next hbad => rw [asciiSplit_bad_hex ht hbad, statusOf]
  next hgood =>
    obtain ⟨heven, hdigits⟩ := not_or.mp hgood
    obtain ⟨r, hr⟩ := exists_hexDec (lower := lower) (t := t) (by omega) fun c hc hn => hdigits ⟨c, hc, hn⟩
    rw [asciiSplit_of_text lower ht, if_neg (by omega), hr]
    rfl

/-- The status of a split and of what is done with a good one: the split's raise goes first (R72, R73). -/
theorem bind_status {e : Except Status Result} {f : Result → Except Status Result} {c : Status} (he : e ≠ .error .ok)
    (hf : ∀ d, e = .ok d → d.status = .ok ∧ statusOf (f d) = c) :
    statusOf (e.bind f) = if statusOf e ≠ .ok then statusOf e else c := by
  cases e with
  | ok d =>
    obtain ⟨hd, hfd⟩ := hf d rfl
    exact hfd.trans (if_neg (not_not.mpr hd)).symm
  | error b =>
    have hb : b ≠ .ok := fun hok => he (congrArg _ hok)
    exact (if_pos hb).symm

theorem reframeAsAscii_status {d : Result} (h : d.status = .ok) :
    statusOf (reframeAsAscii d) = if 253 < d.out.length then .rangePdu else .ok := by
  rw [reframeAsAscii, pduMax_eq]
  split
  · rfl
  · exact h

theorem reframeAsRtu_status {d : Result} (h : d.status = .ok) :
    statusOf (reframeAsRtu d) = if 253 < d.out.length then .rangePdu else .ok := by
  rw [reframeAsRtu, pduMax_eq]
  split
  · rfl
  · exact h

/-- The PDU of a split RTU frame is the frame without three bytes, so it is over 253 bytes where the frame is over 256 (R72). -/
theorem rtuToAscii_status (frame : Bytes) :
    statusOf ((rtuSplit frame).bind reframeAsAscii) =
      if frame.length < 4 then .rangeLength else if 256 < frame.length then .rangePdu else .ok := by
  have hreframe : ∀ d, rtuSplit frame = .ok d →
      d.status = .ok ∧ statusOf (reframeAsAscii d) = if 256 < frame.length then .rangePdu else .ok := by
    intro d hd
    obtain ⟨a, pdu, rx, computed, rfl, hlen⟩ := rtuSplit_eq_ok hd
    have hbound : 253 < pdu.length ↔ 256 < frame.length := by omega
    exact ⟨rfl, (reframeAsAscii_status rfl).trans (if_congr hbound rfl rfl)⟩
  rw [bind_status (rtuSplit_ne_error_ok frame) hreframe, rtuSplit_status]
  by_cases h : frame.length < 4 <;> simp [h]

/-- The PDU of a split ASCII frame has two characters a byte beside seven others, so it is over 253 bytes where the frame is over
513 (R73). -/
theorem asciiToRtu_status (lower : Bool) (frame : Bytes) :
    statusOf ((asciiSplit lower frame).bind reframeAsRtu) =
      if Claims.asciiStatus lower frame ≠ .ok then Claims.asciiStatus lower frame
      else if 513 < frame.length then .rangePdu else .ok := by
  have hreframe : ∀ d, asciiSplit lower frame = .ok d →
      d.status = .ok ∧ statusOf (reframeAsRtu d) = if 513 < frame.length then .rangePdu else .ok := by
    intro d hd
    obtain ⟨a, pdu, rx, computed, rfl, hlen⟩ := asciiSplit_eq_ok hd
    have hbound : 253 < pdu.length ↔ 513 < frame.length := by omega
    exact ⟨rfl, (reframeAsRtu_status rfl).trans (if_congr hbound rfl rfl)⟩
  rw [bind_status (asciiSplit_ne_error_ok lower frame) hreframe, asciiSplit_status]

/-- The outcome is a next state whose Result has the status `c`. -/
def EndsWithStatus (c : Status) (o : Host.Outcome State Fault Refusal) : Prop :=
  ∃ t r, o = .next t ∧ t.result = some r ∧ r.status = c

theorem complete_endsWithStatus (r : Result) (s : State) : EndsWithStatus r.status (complete r s) :=
  ⟨s.returning r, r, rfl, rfl, rfl⟩

theorem conclude_endsWithStatus {e : Except Status Result} {c : Status} (h : statusOf e = c) (s : State) :
    EndsWithStatus c (conclude e s) := by
  subst h
  cases e with
  | ok r => exact complete_endsWithStatus r s
  | error c => exact complete_endsWithStatus (errorResult c) s

/-- A command whose profile check passes ends with the status of its own checks. -/
theorem exec_endsWithStatus {i : Instr} {s : State} (hi : ∀ p, Claims.neededProfile i = some p → s.profile = p) :
    EndsWithStatus (Claims.ownStatus s.params.asciiAcceptLowercase i.opcode.toNat s.input) (exec i s) := by
  have passed {p : Profile} {e : Except Status Result} {c : Status} (hp : Claims.neededProfile i = some p)
      (he : statusOf e = c) : EndsWithStatus c (gated p e s) :=
    (gated_of_profile (hi p hp) e).symm ▸ conclude_endsWithStatus he s
  cases i with
  | crcInit | crcFeed _ | crcRead | crcCompute | lrcInit | lrcFeed _ | lrcRead | lrcCompute =>
    exact complete_endsWithStatus _ _
  | crcValidate => exact conclude_endsWithStatus (crcValidate_status _) s
  | lrcValidate => exact conclude_endsWithStatus (lrcValidate_status _) s
  | encodeRtu a => exact passed rfl (rtuEncode_status a _)
  | decodeRtu => exact passed rfl (rtuSplit_status _)
  | encodeAscii a => exact passed rfl (asciiEncode_status a _)
  | decodeAscii => exact passed rfl (asciiSplit_status _ _)
  | rtuToAscii => exact conclude_endsWithStatus (rtuToAscii_status _) s
  | asciiToRtu => exact conclude_endsWithStatus (asciiToRtu_status _ _) s

/-! The expected status of a word by what it decodes to (R82). -/

/-- The checks on `OP` and `IMM8` come first: a word that is no command's is an ILLEGAL_CMD. -/
theorem expectedStatus_of_illegal {w : CmdWord} {e : DecodeError} (hd : decode w = .error e) (profile : Profile) (lower : Bool)
    (input : Bytes) : Claims.expectedStatus profile lower w input = .illegalCmd := by
  rw [Claims.expectedStatus]
  obtain hop | himm := illegal_of_decode_error hd
  · refine if_pos ?_
    unfold Claims.isReservedOp at hop
    omega
  · exact ite_eq_left_iff.mpr fun _ => if_pos himm

/-- A legal word passes the checks on `OP` and `IMM8`; what is left are the profile and the command's own checks. -/
theorem expectedStatus_of_legal {w : CmdWord} {i : Instr} (hd : decode w = .ok i) (profile : Profile) (lower : Bool)
    (input : Bytes) :
    Claims.expectedStatus profile lower w input =
      if (i.opcode.toNat = 0x10 ∨ i.opcode.toNat = 0x11) ∧ profile ≠ .rtu then .profileMismatch
      else if (i.opcode.toNat = 0x12 ∨ i.opcode.toNat = 0x13) ∧ profile ≠ .ascii then .profileMismatch
      else Claims.ownStatus lower i.opcode.toNat input := by
  have himm : ¬ (i.opcode.toNat ∈ Claims.operandFreeOps ∧ w.toNat % 256 ≠ 0) := fun ⟨hfree, hne⟩ =>
    hne (by rw [← operand_toNat_of_decode hd, operand_of_operandFree hfree]; rfl)
  have hop := not_isReservedOp_opcode i
  have hlt := i.opcode.isLt
  unfold Claims.isReservedOp at hop
  rw [Claims.expectedStatus, ← opcode_toNat_of_decode hd, if_neg (by omega), if_neg himm]

theorem expectedStatus_of_own_profile {w : CmdWord} {i : Instr} {profile : Profile} (hd : decode w = .ok i)
    (hi : ∀ p, Claims.neededProfile i = some p → profile = p) (lower : Bool) (input : Bytes) :
    Claims.expectedStatus profile lower w input = Claims.ownStatus lower i.opcode.toNat input := by
  rw [expectedStatus_of_legal hd]
  cases i with
  | encodeRtu _ | decodeRtu | encodeAscii _ | decodeAscii =>
    cases hi _ rfl
    rfl
  | crcInit | crcFeed _ | crcRead | crcCompute | crcValidate | lrcInit | lrcFeed _ | lrcRead | lrcCompute | lrcValidate
  | rtuToAscii | asciiToRtu => rfl

theorem expectedStatus_of_other_profile {w : CmdWord} {i : Instr} {profile p : Profile} (hd : decode w = .ok i)
    (hi : Claims.neededProfile i = some p) (hne : profile ≠ p) (lower : Bool) (input : Bytes) :
    Claims.expectedStatus profile lower w input = .profileMismatch := by
  rw [expectedStatus_of_legal hd]
  cases i with
  | encodeRtu _ | decodeRtu =>
    cases hi
    cases profile with
    | rtu => exact absurd rfl hne
    | ascii => rfl
  | encodeAscii _ | decodeAscii =>
    cases hi
    cases profile with
    | rtu => rfl
    | ascii => exact absurd rfl hne
  | crcInit | crcFeed _ | crcRead | crcCompute | crcValidate | lrcInit | lrcFeed _ | lrcRead | lrcCompute | lrcValidate
  | rtuToAscii | asciiToRtu => cases hi

/-! What a Result counts in (R91). -/

theorem status_code_eq_zero (c : Status) : c.code = 0 ↔ c = .ok := by
  cases c <;> decide

theorem addrClass_code_eq_one (c : AddrClass) : c.code = 1 ↔ c = .broadcast := by
  cases c <;> decide

theorem Result.usable_iff (r : Result) : r.usable = true ↔ r.status.code = 0 ∧ r.chkOk = true := by
  rw [Result.usable, Bool.and_eq_true, decide_eq_true_iff, status_code_eq_zero]

theorem Result.isFailure_iff (r : Result) :
    r.isFailure = true ↔ (r.status.code = 0 ∧ r.chkOk = false) ∨ r.status.code ∈ [(1 : Byte), 2, 3] := by
  rw [Result.isFailure]
  cases r.status <;> simp [Status.code]

theorem busMessageCount_mem_iff (r : Result) : .busMessageCount ∈ countedEvents r ↔ r.usable = true := by
  simp [countedEvents]

theorem busCommunicationErrorCount_mem_iff (r : Result) :
    .busCommunicationErrorCount ∈ countedEvents r ↔ r.isFailure = true := by
  simp [countedEvents]

theorem slaveNoResponseCount_mem_iff (r : Result) :
    .slaveNoResponseCount ∈ countedEvents r ↔ r.usable = true ∧ r.addrClass = .broadcast := by
  simp [countedEvents]

end Sys2Proof.Machine
end

section
/-! The statements about statuses, counters and fleets (spec/60_exceptions.md), settled. -/

namespace Sys2Proof.Proofs

open Sys2Proof.Machine

/-- Settles O12: each of the two steps replaces its own entry of the fleet, and reads no other. -/
theorem instancesAreIndependent : Obligations.InstancesAreIndependent := by
  intro fleet f g j k hjk hf hg
  obtain ⟨s, t, hs, hst, rfl⟩ := stepAt_eq_next.mp hf
  obtain ⟨u, v, hu, huv, rfl⟩ := stepAt_eq_next.mp hg
  refine ⟨List.getElem?_set_ne hjk, (fleet.set j t).set k v, stepAt_set_ne hjk t hu huv, ?_⟩
  rw [List.set_comm t v hjk]
  exact stepAt_set_ne hjk.symm v hs hst

/-- Settles O55: a command that writes a register returns STATUS 0, and any other changes only the host interface. -/
theorem errorsWriteNoState : Obligations.ErrorsWriteNoState := by
  intro s t r h hr hne
  obtain ⟨-, rfl⟩ | ⟨rest, -, rfl⟩ | ⟨w, input, rest, -, -, ⟨i, -, he⟩ | ⟨e, -, rfl⟩⟩ := step_next_cases h
  · cases hr
  · cases hr
  · obtain hi | ⟨-, f, hf⟩ | ⟨-, f, hf⟩ := exec_kinds i
    · obtain ⟨q, hq⟩ := exec_of_writesNoRegister hi s
      cases hq.symm.trans he
      cases hr
      exact ⟨errorResult_of_exec hi hq hne, rfl, rfl, rfl, rfl⟩
    · cases (hf s).symm.trans he
      cases hr
      exact absurd rfl hne
    · cases (hf s).symm.trans he
      cases hr
      exact absurd rfl hne
  · cases hr
    exact ⟨rfl, rfl, rfl, rfl, rfl⟩

/-- Settles O54: a word that is no command's fails the first two checks, a command on the wrong profile the third, and what is left
are the command's own checks. -/
theorem statusIsTheFirstFailingCheck : Obligations.StatusIsTheFirstFailingCheck := by
  refine ⟨rfl, fun s w input rest h hl => ?_⟩
  cases hd : decode w with
  | error e =>
    rw [step_of_illegal h hl hd, expectedStatus_of_illegal hd]
    exact complete_endsWithStatus (errorResult .illegalCmd) s
  | ok i =>
    rw [step_of_legal h hl hd]
    by_cases hp : ∃ p, Claims.neededProfile i = some p ∧ s.profile ≠ p
    · obtain ⟨p, hi, hne⟩ := hp
      rw [expectedStatus_of_other_profile hd hi hne]
      exact ⟨_, _, answers_of_other_profile hi hne, rfl, rfl⟩
    · have hi : ∀ p, Claims.neededProfile i = some p → s.profile = p :=
        fun p hi => of_not_not fun hne => hp ⟨p, hi, hne⟩
      rw [expectedStatus_of_own_profile hd hi, ← State.input_of_issue h]
      exact exec_endsWithStatus hi

/-- Settles O60: each counter is in the list exactly under its own condition of R91, and a code names one status or class. -/
theorem hostCountsFromResults : Obligations.HostCountsFromResults := by
  intro r
  refine ⟨(busMessageCount_mem_iff r).trans r.usable_iff, (busCommunicationErrorCount_mem_iff r).trans r.isFailure_iff, ?_⟩
  rw [slaveNoResponseCount_mem_iff, r.usable_iff, addrClass_code_eq_one, and_assoc]

end Sys2Proof.Proofs
end

section
/-! The statements about reset and the hazards (spec/70_reset_and_hazards.md), settled. -/

namespace Sys2Proof.Proofs

open Sys2Proof.Machine

/-- Settles O49: RTU_TO_ASCII writes the ASCII frame of what it split, with an LRC of its own, so the decoder finds that frame
good; only the converter's `CHK_OK` compares the received CRC. -/
theorem converterHidesCorruption : Obligations.ConverterHidesCorruption := by
  intro s u a p b0 b1 h2 h253 hs hu
  have hrtu := hs ▸ rtuSplit_of_parts a (List.ne_nil_of_length_pos (Nat.zero_lt_of_lt h2)) b0 b1
  refine ⟨_, rtuToAscii_answers hrtu h253, rfl, decide_eq_true_iff.trans (crcOfWire_eq_iff b0 b1 _),
    fun (hin : u.input = asciiFrame a p) => ?_⟩
  have hascii := hin ▸ asciiSplit_asciiFrame u.params.asciiAcceptLowercase a h2
  exact ⟨_, decodeAscii_answers hu hascii, rfl, rfl, rfl, decodedResult_chkOk_self a p _⟩

/-- Settles O1: the step of a reset is `State.afterReset`, which takes the reset event off the issue list; power-on is built with
the same two values. -/
theorem resetSetsBothRegisters : Obligations.ResetSetsBothRegisters := by
  refine ⟨fun s rest h => ?_, fun _ _ => rfl⟩
  rw [step_of_reset h, State.afterReset, h]
  rfl

end Sys2Proof.Proofs
end
